-- ==== Sys2Proof/Word.lean ====
section
/-! DEFINITION. The widths of 00_scope.md R6 and R9: a Word is 32 bits, a register id 5, a counter 64. -/

namespace Sys2Proof

/-- A Word: registers, `pc`, addresses (R6 XLEN = 32, R8). -/
abbrev Word := BitVec 32

/-- A register id, 0..31 (R9). -/
abbrev RegId := BitVec 5

/-- A counter of R29 (CW = 64 bits, R6). -/
abbrev Counter := BitVec 64

end Sys2Proof
end

