-- ==== Sys2Proof/Config.lean ====
section
/-! DEFINITION. What the design fixes (00_scope.md R6), the shape of the construction parameters, and the one parameter the
spec leaves open. -/

namespace Sys2Proof

namespace Config

/-- BASE, the address of the first instruction (R6, C5): a constant, not an argument. -/
def base : Word := 0x40000000#32

/-- The bound on the program length N (R6, D19). -/
def maxProgram : Nat := 0x30000000

/-- The largest latency of a stage (R6, D18). -/
def maxLatency : Nat := 255

/-- The two orders a sub-word view of memory could have. -/
inductive ByteOrder where
  | littleEndian
  | bigEndian
  deriving DecidableEq, Repr, Inhabited

/-- BYTE_ORDER, left OPEN: R63 says a model must not fix it. It has no body, and nothing reads it, because no access moves less
than a Word (log 1). -/
opaque byteOrder : ByteOrder

end Config

/-- The slots of each stage, L_D, L_E, L_M, L_W (R6, R21). A latency outside 1..255 can be written, so that CONSTRUCT can
refuse it (R288). -/
structure Latencies where
  d : Nat
  e : Nat
  m : Nat
  w : Nat
  deriving DecidableEq, Repr

/-- The maximum clock rate of each stage in Hz, F_D, F_E, F_M, F_W, each a 32-bit value (R6, D17). -/
structure Frequencies where
  d : Word
  e : Word
  m : Word
  w : Word
  deriving DecidableEq, Repr

end Sys2Proof
end

