-- ==== Sys2Proof/Syntax.lean ====
section
/-! DEFINITION. The instructions: one constructor per row of spec/opcode_table.json. The first six are the program kinds of
30_encoding.md R94, the last five the host commands of R92. Every field has the width its encoding gives it. -/

namespace Sys2Proof

/-- The four stages, in pipeline order (R10). -/
inductive Stage where
  | decode
  | execute
  | memory
  | writeback
  deriving DecidableEq, Repr

/-- The reference kind set (R94). -/
inductive Kind where
  | add
  | sub
  | andi
  | lw
  | sw
  | j
  deriving DecidableEq, Repr

/-- `resultReadyAfter` (R115). No reference kind is WB-ready; the arbiter's rules cover it (R206). -/
inductive Rra where
  | ex
  | mem
  | wb
  deriving DecidableEq, Repr

/-- The rows of the opcode table. Operands stand in the order of the assembler syntax (R89). -/
inductive Instr where
  | add (rd rs rt : RegId)
  | sub (rd rs rt : RegId)
  | andi (rt rs : RegId) (imm16 : BitVec 16)
  | lw (rt rs : RegId) (off16 : BitVec 16)
  | sw (rt rs : RegId) (off16 : BitVec 16)
  | j (index26 : BitVec 26)
  | nop
  | run (n : BitVec 24)
  | setupFwd (source target : Stage)
  | flushAll
  | read (index : BitVec 8)
  deriving DecidableEq, Repr

/-- The kind of a program instruction; a host command has none. -/
def Instr.kind? : Instr → Option Kind
  | .add _ _ _ => some .add
  | .sub _ _ _ => some .sub
  | .andi _ _ _ => some .andi
  | .lw _ _ _ => some .lw
  | .sw _ _ _ => some .sw
  | .j _ => some .j
  | .nop => none
  | .run _ => none
  | .setupFwd _ _ => none
  | .flushAll => none
  | .read _ => none

/-- The display label, `getInstructionName()`: the mnemonic (R116). -/
def Kind.label : Kind → String
  | .add => "add"
  | .sub => "sub"
  | .andi => "andi"
  | .lw => "lw"
  | .sw => "sw"
  | .j => "j"

end Sys2Proof
end

