-- ==== Sys2Proof/WellFormed.lean ====
section
/-! DEFINITION. The checks that types alone do not make: what may stand in a program, and what CONSTRUCT accepts (R251, R288).
An operand is well formed by its type: each field of `Instr` has exactly the width its encoding gives it. -/

namespace Sys2Proof

/-- Only a kind of R94 can stand in a program; a host command cannot. -/
def Instr.isProgram (i : Instr) : Bool := i.kind?.isSome

/-- Only a host command can come as a command word (R92). -/
def Instr.isCommand (i : Instr) : Bool := i.kind?.isNone

/-- One latency is in 1..255 (D18). -/
def latencyOk (n : Nat) : Bool := 1 ≤ n && n ≤ Config.maxLatency

/-- Every latency is in 1..255 (R6, R288). -/
def Latencies.wf (l : Latencies) : Bool := latencyOk l.d && latencyOk l.e && latencyOk l.m && latencyOk l.w

/-- No frequency is 0 (R6, R288). -/
def Frequencies.wf (f : Frequencies) : Bool := f.d != 0#32 && f.e != 0#32 && f.m != 0#32 && f.w != 0#32

/-- The program length is at most 0x30000000 (R6, D19). -/
def programLengthOk (n : Nat) : Bool := n ≤ Config.maxProgram

/-- A program holds kinds only and is not too long (R6, R94). -/
def programWf (p : List Instr) : Bool := p.all Instr.isProgram && programLengthOk p.length

end Sys2Proof
end

