-- ==== Sys2Proof/Decode.lean ====
section
/-! DEFINITION. Decoding and encoding of the two word spaces of 30_encoding.md: instruction words, validated against a claimed
kind (R84), and host command words (R92). The decoder is total and rejects by name; the encoder stands after it. -/

namespace Sys2Proof

/-- Why a word is rejected. -/
inductive DecodeError where
  /-- The word does not match the kind it is claimed to be: MalformedEncoding (R84, R281). -/
  | malformedEncoding (claimed : Kind)
  /-- The word matches no row of R92: a reserved command word, IllegalCommand (R93). -/
  | illegalCommand
  /-- The word matches no row of the opcode table at all. -/
  | noRow
  deriving DecidableEq, Repr

/-- One row of the opcode map: MATCH and MASK (R92, R94). -/
structure EncodingRow where
  pattern : Word
  mask : Word
  deriving DecidableEq, Repr

/-- A word selects a row when its masked bits are the row's MATCH (R84). -/
def EncodingRow.accepts (r : EncodingRow) (w : Word) : Bool := w &&& r.mask == r.pattern

/-- MATCH and MASK of each kind (R94). -/
def Kind.row : Kind → EncodingRow
  | .add => ⟨0x00000020#32, 0xFC0007FF#32⟩
  | .sub => ⟨0x00000022#32, 0xFC0007FF#32⟩
  | .andi => ⟨0x30000000#32, 0xFC000000#32⟩
  | .lw => ⟨0x8C000000#32, 0xFC000000#32⟩
  | .sw => ⟨0xAC000000#32, 0xFC000000#32⟩
  | .j => ⟨0x08000000#32, 0xFC000000#32⟩

/-- MATCH and MASK of NOP (R92). -/
def nopRow : EncodingRow := ⟨0x00000000#32, 0xFFFFFFFF#32⟩
/-- MATCH and MASK of RUN (R92). -/
def runRow : EncodingRow := ⟨0x00000001#32, 0x000000FF#32⟩
/-- MATCH and MASK of SETUP_FWD (R92). -/
def setupFwdRow : EncodingRow := ⟨0x00000002#32, 0xFFFFFF0F#32⟩
/-- MATCH and MASK of FLUSH_ALL (R92). -/
def flushAllRow : EncodingRow := ⟨0x00000003#32, 0xFFFFFFFF#32⟩
/-- MATCH and MASK of READ (R92). -/
def readRow : EncodingRow := ⟨0x00000004#32, 0xFFFF00FF#32⟩

/-- The row of the opcode table an instruction belongs to. -/
def Instr.row : Instr → EncodingRow
  | .add _ _ _ => Kind.row .add
  | .sub _ _ _ => Kind.row .sub
  | .andi _ _ _ => Kind.row .andi
  | .lw _ _ _ => Kind.row .lw
  | .sw _ _ _ => Kind.row .sw
  | .j _ => Kind.row .j
  | .nop => nopRow
  | .run _ => runRow
  | .setupFwd _ _ => setupFwdRow
  | .flushAll => flushAllRow
  | .read _ => readRow

/-- `rs`, bits 25:21 (R81, R82). -/
def rsField (w : Word) : RegId := w.extractLsb' 21 5
/-- `rt`, bits 20:16 (R81, R82). -/
def rtField (w : Word) : RegId := w.extractLsb' 16 5
/-- `rd`, bits 15:11 (R81). -/
def rdField (w : Word) : RegId := w.extractLsb' 11 5
/-- `imm16`, bits 15:0 (R82). -/
def imm16Field (w : Word) : BitVec 16 := w.extractLsb' 0 16
/-- `index26`, bits 25:0 (R83). -/
def index26Field (w : Word) : BitVec 26 := w.extractLsb' 0 26
/-- `n` of RUN, bits 31:8 (R91). -/
def countField (w : Word) : BitVec 24 := w.extractLsb' 8 24
/-- INDEX of READ, bits 15:8 (R91). -/
def indexField (w : Word) : BitVec 8 := w.extractLsb' 8 8

/-- The 2-bit stage code: D = 0, E = 1, M = 2, W = 3 (R10). -/
def Stage.code : Stage → BitVec 2
  | .decode => 0#2
  | .execute => 1#2
  | .memory => 2#2
  | .writeback => 3#2

/-- The stage of a 2-bit code (R10). -/
def Stage.ofCode (c : BitVec 2) : Stage :=
  if c = 0#2 then .decode else if c = 1#2 then .execute else if c = 2#2 then .memory else .writeback

/-- The fields of a kind's format, cut from a word (R81 to R83). -/
def cutFields (k : Kind) (w : Word) : Instr :=
  match k with
  | .add => .add (rdField w) (rsField w) (rtField w)
  | .sub => .sub (rdField w) (rsField w) (rtField w)
  | .andi => .andi (rtField w) (rsField w) (imm16Field w)
  | .lw => .lw (rtField w) (rsField w) (imm16Field w)
  | .sw => .sw (rtField w) (rsField w) (imm16Field w)
  | .j => .j (index26Field w)

/-- `decode(kind, w)`: validation against the claimed kind, every bit of MASK checked (R84, R87, D35, D38). -/
def decodeAs (k : Kind) (w : Word) : Except DecodeError Instr :=
  if k.row.accepts w then .ok (cutFields k w) else .error (.malformedEncoding k)

/-- Command selection (R92); any other word is reserved (R93). -/
def decodeCommand (w : Word) : Except DecodeError Instr :=
  if nopRow.accepts w then .ok .nop
  else if runRow.accepts w then .ok (.run (countField w))
  else if setupFwdRow.accepts w then .ok (.setupFwd (Stage.ofCode (w.extractLsb' 4 2)) (Stage.ofCode (w.extractLsb' 6 2)))
  else if flushAllRow.accepts w then .ok .flushAll
  else if readRow.accepts w then .ok (.read (indexField w))
  else .error .illegalCommand

/-- The kinds, in the order of the opcode table. -/
def Kind.all : List Kind := [.add, .sub, .andi, .lw, .sw, .j]

/-- A bare word read as a table row: the kinds first, then the commands. The machine itself never guesses a word's space: a
program word comes with its claimed kind and a command word comes from the host. The two spaces overlap (0x00000022 is both
`sub r0, r0, r0` and SETUP_FWD(M, D)), so a bare word needs an order; this one is the model's choice (DESIGN CHOICE, log 8). -/
def decodeWord (w : Word) : Except DecodeError Instr :=
  match Kind.all.find? fun k => k.row.accepts w with
  | some k => .ok (cutFields k w)
  | none =>
    match decodeCommand w with
    | .ok i => .ok i
    | .error _ => .error .noRow

/-- The instruction that the decoder reads from `nbits` bits of value `w`, as the opcode table numbers them. Every row is one
32-bit Word (R80); the bits above `nbits` are 0. -/
def decodeTableWord (nbits w : Nat) : Option Instr :=
  if nbits ≤ 32 ∧ w < 2 ^ nbits then (decodeWord (BitVec.ofNat 32 w)).toOption else none

/-- Decode a program: the first failing word, at the lowest index, is the one reported (R251, R290). -/
def decodeProgram : List (Kind × Word) → Except DecodeError (List Instr)
  | [] => .ok []
  | (k, w) :: rest =>
    match decodeAs k w with
    | .error e => .error e
    | .ok i =>
      match decodeProgram rest with
      | .error e => .error e
      | .ok is => .ok (i :: is)

/-- The word of an instruction, from the layouts of R81 to R83, R91 and the fixed fields of R92, R94. -/
def encode : Instr → Word
  | .add rd rs rt => 0x00#6 ++ rs ++ rt ++ rd ++ 0x00#5 ++ 0x20#6
  | .sub rd rs rt => 0x00#6 ++ rs ++ rt ++ rd ++ 0x00#5 ++ 0x22#6
  | .andi rt rs imm16 => 0x0C#6 ++ rs ++ rt ++ imm16
  | .lw rt rs off16 => 0x23#6 ++ rs ++ rt ++ off16
  | .sw rt rs off16 => 0x2B#6 ++ rs ++ rt ++ off16
  | .j index26 => 0x02#6 ++ index26
  | .nop => 0x00000000#32
  | .run n => n ++ 0x01#8
  | .setupFwd source target => 0x000000#24 ++ target.code ++ source.code ++ 0x2#4
  | .flushAll => 0x00000003#32
  | .read index => 0x0000#16 ++ index ++ 0x04#8

/-- The assembler's `j target` at an address (R89): `target[27:2]` goes into index26; a target that is no word address of the
jump's 256 MB region has no encoding. -/
def assembleJump (addr target : Word) : Option Instr :=
  if target.extractLsb' 0 2 = 0#2 ∧ target.extractLsb' 28 4 = (addr + 4#32).extractLsb' 28 4 then
    some (.j (target.extractLsb' 2 26))
  else none

/-- A register's spelling, `r0` to `r31` (R89). -/
def regName (r : RegId) : String := "r" ++ toString r.toNat

/-- The assembly text of a program instruction placed at an address (R89): immediates in decimal, a load's or store's offset
signed, a jump's target absolute. A host command has no assembly text. -/
def assemblyText (addr : Word) : Instr → Option String
  | .add rd rs rt => some ("add " ++ regName rd ++ ", " ++ regName rs ++ ", " ++ regName rt)
  | .sub rd rs rt => some ("sub " ++ regName rd ++ ", " ++ regName rs ++ ", " ++ regName rt)
  | .andi rt rs imm16 => some ("andi " ++ regName rt ++ ", " ++ regName rs ++ ", " ++ toString imm16.toNat)
  | .lw rt rs off16 => some ("lw " ++ regName rt ++ ", " ++ toString off16.toInt ++ "(" ++ regName rs ++ ")")
  | .sw rt rs off16 => some ("sw " ++ regName rt ++ ", " ++ toString off16.toInt ++ "(" ++ regName rs ++ ")")
  | .j index26 => some ("j " ++ toString ((addr + 4#32).extractLsb' 28 4 ++ index26 ++ 0#2).toNat)
  | .nop => none
  | .run _ => none
  | .setupFwd _ _ => none
  | .flushAll => none
  | .read _ => none

end Sys2Proof
end

