-- ==== Sys2Proof/Machine/State.lean ====
section
/-! DEFINITION. The state of the PSC as plain data: the configuration of R21, the tuple of R20, and four fields of the model's
own for the host's inputs and outputs (log 6, log 10). The reset values are R39's. -/

namespace Sys2Proof.Machine

/-- An in-flight record (R23). Its descriptor's fields (kind, srcs, dsts, rra, R110) are computed from the instruction. -/
structure InFlight where
  /-- `I.desc`: the decoded instruction, from PROG. -/
  instr : Instr
  /-- `I.addr`: the address it was fetched from. -/
  addr : Word
  /-- `I.res`: the internal result. -/
  res : Word
  /-- `I.ea`: the effective data address. -/
  ea : Word
  /-- `I.sdata`: the store data. -/
  sdata : Word
  deriving DecidableEq, Repr

/-- An entry of the issue queue (R24). -/
inductive QEntry where
  | bubble
  | held (I : InFlight)
  deriving DecidableEq, Repr

/-- A commit record (R32): label, address, and the signed value of the first destination, absent when there is none. -/
structure CommitRecord where
  name : String
  addr : Word
  value : Option Int
  deriving DecidableEq, Repr

/-- The fault kinds of R280. -/
inductive FaultKind where
  | doubleLoad
  | malformedEncoding
  | unconfiguredHazard
  | lateConfiguration
  | unsupportedForwardingEdge
  | illegalCommand
  | misalignedData
  | badConfiguration
  deriving DecidableEq, Repr

/-- One entry of the data memory: an address and its Word. DMEM is word-granular (R62), so an entry is a Word and not a byte; a
list of bytes would have to fix BYTE_ORDER, which R63 forbids (log 1). -/
abbrev WordCell := Nat × Word

/-- The data memory, in canonical form: see `Memory.wf` (Machine/Ops.lean). -/
abbrev Memory := List WordCell

/-- The Word an unlisted address reads as. DESIGN CHOICE, unsafe: the spec leaves MEM0 open (D25, log 2). Every total MEM0 is a
finite list over this default, so CONSTRUCT can still give any MEM0. -/
def unlistedWord : Word := 0#32

/-- The arguments of CONSTRUCT (R251). MEM0 comes as (address, Word) pairs, a later pair for one address standing (log 14). -/
structure ConstructArgs where
  program : List (Kind × Word)
  lat : Latencies
  freq : Frequencies
  rf0 : Vector Word 32
  mem0 : List (Word × Word)
  deriving DecidableEq, Repr

/-- What the host can send (R250): a command word, or CONSTRUCT with its arguments. -/
inductive HostInput where
  | command (w : Word)
  | construct (a : ConstructArgs)
  deriving DecidableEq, Repr

/-- The machine. -/
structure State where
  /-- L_D, L_E, L_M, L_W (R21): fixed at construction. -/
  lat : Latencies
  /-- F_D, F_E, F_M, F_W (R21): fixed at construction. -/
  freq : Frequencies
  /-- PROG[0..N-1] (R21), descriptor i at BASE + 4*i: fixed at construction. -/
  prog : List Instr
  /-- slot[D][0..L_D-1], entry first (R22). -/
  slotD : List (Option InFlight)
  /-- slot[E][0..L_E-1], entry first (R22). -/
  slotE : List (Option InFlight)
  /-- slot[M][0..L_M-1], entry first (R22). -/
  slotM : List (Option InFlight)
  /-- slot[W][0..L_W-1], entry first (R22). -/
  slotW : List (Option InFlight)
  /-- The issue queue, head first (R24). -/
  queue : List QEntry
  /-- busy[0..31] (R25). -/
  busy : Vector Nat 32
  /-- The fetch pointer (R26). -/
  pc : Word
  /-- FWD_CFG (R28). -/
  fwdCfg : BitVec 16
  /-- Instructions retired (R29). -/
  committed : Counter
  /-- Cycles in which nothing retired (R29). -/
  stalls : Counter
  /-- Bubbles given to fetched instructions (R29). -/
  hazardBubbles : Counter
  /-- A cycle has completed (R30). -/
  started : Bool
  /-- The sticky fault code, 0 for none (R31, R280). -/
  fault : BitVec 4
  /-- The commit trace, oldest first (R32). -/
  trace : List CommitRecord
  /-- x[0..31] (R33). -/
  regs : Vector Word 32
  /-- DMEM (R62). -/
  dmem : Memory
  /-- MODEL's own (log 6): cycles of the RUN being carried out that are still to come. -/
  runLeft : Nat
  /-- MODEL's own (log 6): the host's inputs not yet taken, oldest first. -/
  inbox : List HostInput
  /-- MODEL's own (log 6): the READ responses given, oldest first (R256). -/
  responses : List Word
  /-- MODEL's own (log 10): what the last CONSTRUCT reported; 0 for a PSC that exists (R251). -/
  constructResult : BitVec 4
  deriving DecidableEq, Repr

/-- The two ways a step ends the machine: a refused CONSTRUCT, after which no PSC exists (R251). Every other fault of the spec
is the sticky code of `State.fault`, a next state (R289). -/
inductive Fault where
  /-- Raised by the step that takes a CONSTRUCT with a word that does not match its claimed kind (R281). Safe: R251 says that
  no instance comes into existence. -/
  | malformedEncoding
  /-- Raised by the step that takes a CONSTRUCT whose program decodes but whose latencies, frequencies or program length are out
  of range (R288). Safe: R251 says that no instance comes into existence. -/
  | badConfiguration
  deriving DecidableEq, Repr

/-- Why a step has no meaning. -/
inductive Refusal where
  /-- An instruction of the opcode table without a meaning yet; raised by no arm of `exec`. Safe: the model stops. -/
  | notModelled (mnemonic : String)
  deriving DecidableEq, Repr

/-- The state after a successful CONSTRUCT (R39, R310): every slot empty, and the fields the host gave. -/
def State.initial (lat : Latencies) (freq : Frequencies) (prog : List Instr) (rf0 : Vector Word 32) (mem0 : Memory) : State where
  lat := lat
  freq := freq
  prog := prog
  slotD := List.replicate lat.d none
  slotE := List.replicate lat.e none
  slotM := List.replicate lat.m none
  slotW := List.replicate lat.w none
  queue := []
  busy := Vector.replicate 32 0
  pc := Config.base
  fwdCfg := 0#16
  committed := 0#64
  stalls := 0#64
  hazardBubbles := 0#64
  started := false
  fault := 0#4
  trace := []
  regs := rf0
  dmem := mem0
  runLeft := 0
  inbox := []
  responses := []
  constructResult := 0#4

/-- The machine right after reset: R39's values for a PSC constructed with the default latency 1 (R6), frequencies of 1 Hz, no
program, and all-zero RF0 and MEM0. The construction arguments are DESIGN CHOICES (log 2, 3, 4): the spec leaves them to the
host. -/
def State.reset : State :=
  State.initial ⟨1, 1, 1, 1⟩ ⟨1#32, 1#32, 1#32, 1#32⟩ [] (Vector.replicate 32 0#32) []

end Sys2Proof.Machine
end

