-- ==== Sys2Proof/Machine/Ops.lean ====
section
/-! DEFINITION. The operations every rule uses: the data memory (R62), the register file (R33), the busy counts (R25), the slot
chains (R22), IMEM lookup (R61), killing a record (R233) and entering the FAULTED state (R289). -/

namespace Sys2Proof

/-! ### Lengths and positions (R11, R154) -/

/-- `size(s) = L_s` (R154). -/
def Latencies.size (l : Latencies) : Stage → Nat
  | .decode => l.d
  | .execute => l.e
  | .memory => l.m
  | .writeback => l.w

/-- The pipeline length P (R154). -/
def Latencies.total (l : Latencies) : Nat := l.d + l.e + l.m + l.w

/-- `OFF(s)`, the position of a stage's entry slot (R11). -/
def Latencies.offset (l : Latencies) : Stage → Nat
  | .decode => 0
  | .execute => l.d
  | .memory => l.d + l.e
  | .writeback => l.d + l.e + l.m

end Sys2Proof

namespace Sys2Proof.Machine

/-! ### Data memory -/

/-- The Word at an address of a memory (R62). -/
def Memory.readAt : Memory → Nat → Word
  | [], _ => unlistedWord
  | (b, v) :: rest, a => if b = a then v else Memory.readAt rest a

/-- Make `v` the Word at `a`, keeping the canonical form: rising addresses, no entry equal to the unlisted Word. -/
def Memory.writeAt : Memory → Nat → Word → Memory
  | [], a, v => if v = unlistedWord then [] else [(a, v)]
  | (b, u) :: rest, a, v =>
    if a < b then (if v = unlistedWord then (b, u) :: rest else (a, v) :: (b, u) :: rest)
    else if a = b then (if v = unlistedWord then rest else (a, v) :: rest)
    else (b, u) :: Memory.writeAt rest a v

/-- All addresses of a memory are at least `lo`, strictly rising and below 2^32, and no entry holds the unlisted Word. -/
def Memory.wfFrom : Nat → Memory → Bool
  | _, [] => true
  | lo, (b, v) :: rest => lo ≤ b && b < 2 ^ 32 && v != unlistedWord && Memory.wfFrom (b + 1) rest

/-- The canonical form, so that equal memories are equal data. -/
def Memory.wf (m : Memory) : Bool := Memory.wfFrom 0 m

/-- A memory from (address, Word) pairs, a later pair for one address standing (log 14). -/
def Memory.ofPairs (l : List (Word × Word)) : Memory :=
  l.foldl (fun m p => Memory.writeAt m p.1.toNat p.2) []

/-- `MemRead(a, 4)` (R9, R62). -/
def State.memRead (s : State) (a : Word) : Word := Memory.readAt s.dmem a.toNat

/-- `MemWrite(a, 4, v)` (R9, R62). -/
def State.memWrite (s : State) (a v : Word) : State := { s with dmem := Memory.writeAt s.dmem a.toNat v }

/-! ### Register file: the one place that reads and writes it. x[0] is ordinary (R33, R127). -/

/-- `x[r]` (R9). -/
def State.x (s : State) (r : RegId) : Word := s.regs[r.toNat]'r.isLt

/-- `x[r] <- v` (R9). -/
def State.setX (s : State) (r : RegId) (v : Word) : State := { s with regs := s.regs.set r.toNat v r.isLt }

/-- `for r in rs: x[r] <- v`, in list order (R114). -/
def State.setXs (s : State) (rs : List RegId) (v : Word) : State := rs.foldl (fun t r => t.setX r v) s

/-! ### Busy counts (R25) -/

/-- `busy[r]`. -/
def State.busyOf (s : State) (r : RegId) : Nat := s.busy[r.toNat]'r.isLt

/-- `busy[r] <- n`. -/
def State.setBusy (s : State) (r : RegId) (n : Nat) : State := { s with busy := s.busy.set r.toNat n r.isLt }

/-- `busy[r] <- busy[r] + 1` once per occurrence (R174). -/
def State.raiseBusy (s : State) (rs : List RegId) : State := rs.foldl (fun t r => t.setBusy r (t.busyOf r + 1)) s

/-- `busy[r] <- busy[r] - 1` once per occurrence (R173, R233). A count is a natural number (R20); the invariant of R25 keeps a
count that is lowered above 0, so the subtraction never meets 0 in a run (log 11). -/
def State.lowerBusy (s : State) (rs : List RegId) : State := rs.foldl (fun t r => t.setBusy r (t.busyOf r - 1)) s

/-! ### Slots (R22) -/

/-- The slot chain of a stage, entry slot first. -/
def State.slots (s : State) : Stage → List (Option InFlight)
  | .decode => s.slotD
  | .execute => s.slotE
  | .memory => s.slotM
  | .writeback => s.slotW

/-- The state with a stage's chain replaced. -/
def State.setSlots (s : State) (st : Stage) (l : List (Option InFlight)) : State :=
  match st with
  | .decode => { s with slotD := l }
  | .execute => { s with slotE := l }
  | .memory => { s with slotM := l }
  | .writeback => { s with slotW := l }

/-- All slots in the order of positions 0..P-1 (R11). -/
def State.allSlots (s : State) : List (Option InFlight) := s.slotD ++ s.slotE ++ s.slotM ++ s.slotW

/-- A fresh in-flight record (R23, R171): the internal result fields are 0. -/
def InFlight.fresh (i : Instr) (addr : Word) : InFlight := ⟨i, addr, 0#32, 0#32, 0#32⟩

/-! ### Instruction memory -/

/-- `imem(a)` (R61): no instruction below BASE, past the end, or at an unaligned address. -/
def imem (prog : List Instr) (a : Word) : Option Instr :=
  let off := a - Config.base
  if off.extractLsb' 0 2 = 0#2 then prog[off.toNat / 4]? else none

/-! ### Faults -/

/-- The codes of R280. -/
def FaultKind.code : FaultKind → BitVec 4
  | .doubleLoad => 1#4
  | .malformedEncoding => 2#4
  | .unconfiguredHazard => 3#4
  | .lateConfiguration => 4#4
  | .unsupportedForwardingEdge => 5#4
  | .illegalCommand => 6#4
  | .misalignedData => 7#4
  | .badConfiguration => 8#4

/-- Entering the FAULTED state, the one fault mechanism (R289): nothing changes but the code, and the first code is kept (R292).
There is no handler, no saved pc and no way back (R291, R292): `FaultKind` has no return beside it. `s` is the state before the
faulting cycle or command, so calling this on it is the rollback of R170. -/
def enterFaulted (k : FaultKind) (s : State) : State :=
  if s.fault = 0#4 then { s with fault := k.code } else s

end Sys2Proof.Machine
end

