-- ==== Sys2Proof/Machine/Construct.lean ====
section
/-! DEFINITION. CONSTRUCT, the reset with arguments (R251, R310). -/

namespace Sys2Proof.Machine

/-- CONSTRUCT(PROG, L, F, RF0, MEM0) (R251): decode first, and only then the configuration checks (R290). -/
def construct (a : ConstructArgs) : Except Fault State :=
  match decodeProgram a.program with
  | .error _ => .error .malformedEncoding
  | .ok prog =>
    if a.lat.wf && a.freq.wf && programLengthOk prog.length then
      .ok (State.initial a.lat a.freq prog a.rf0 (Memory.ofPairs a.mem0))
    else .error .badConfiguration

/-- The code a refused CONSTRUCT reports (R251, R280). -/
def Fault.code : Fault → BitVec 4
  | .malformedEncoding => FaultKind.malformedEncoding.code
  | .badConfiguration => FaultKind.badConfiguration.code

/-- The host issues CONSTRUCT: the old PSC is discarded, and the new one stands, with the host's later inputs still to come, or
none exists (R251, R261, R292; log 9, log 10). -/
def takeConstruct (a : ConstructArgs) (later : List HostInput) : Host.Outcome State Fault Refusal :=
  match construct a with
  | .ok s => .next { s with inbox := later }
  | .error f => .fault f

end Sys2Proof.Machine
end

