-- ==== Sys2Proof/Machine/Operands.lean ====
section
/-! DEFINITION. Operand decode (30_encoding.md R85, R86) and the descriptor of R110. -/

namespace Sys2Proof

/-- `rra` of each kind (R86, R115, D21). -/
def Kind.rra : Kind → Rra
  | .add => .ex
  | .sub => .ex
  | .andi => .ex
  | .lw => .mem
  | .sw => .mem
  | .j => .ex

end Sys2Proof

namespace Sys2Proof.Machine

/-- `zext_32` (R9). -/
def zext32 (v : BitVec 16) : Word := v.zeroExtend 32

/-- `sext_32` (R9). -/
def sext32 (v : BitVec 16) : Word := v.signExtend 32

/-- The jump target `{(addr + 4)[31:28], index26, 0b00}` (R85, R122). -/
def jumpTarget (addr : Word) (index26 : BitVec 26) : Word := (addr + 4#32).extractLsb' 28 4 ++ index26 ++ 0#2

/-- A data access needs `ea[1:0] = 0` (R64). -/
def wordAligned (a : Word) : Bool := a.extractLsb' 0 2 == 0#2

/-- `srcs`, ordered (R86). -/
def srcs : Instr → List RegId
  | .add _ rs rt => [rs, rt]
  | .sub _ rs rt => [rs, rt]
  | .andi _ rs _ => [rs]
  | .lw _ rs _ => [rs]
  | .sw rt rs _ => [rs, rt]
  | .j _ => []
  | .nop => []
  | .run _ => []
  | .setupFwd _ _ => []
  | .flushAll => []
  | .read _ => []

/-- `dsts`, ordered (R86). A command has no operands. -/
def dsts : Instr → List RegId
  | .add rd _ _ => [rd]
  | .sub rd _ _ => [rd]
  | .andi rt _ _ => [rt]
  | .lw rt _ _ => [rt]
  | .sw _ _ _ => []
  | .j _ => []
  | .nop => []
  | .run _ => []
  | .setupFwd _ _ => []
  | .flushAll => []
  | .read _ => []

/-- `rra` of an instruction; a command is no producer and has none. -/
def rraOf (i : Instr) : Option Rra := i.kind?.map Kind.rra

/-- The field values of a descriptor: only those of the kind's format exist (R110). -/
inductive FormatFields where
  | rFormat (rs rt rd : RegId)
  | iFormat (rs rt : RegId) (imm16 : BitVec 16)
  | jFormat (index26 : BitVec 26)
  deriving DecidableEq, Repr

/-- A descriptor, the result of decoding one (kind, word) pair (R110). -/
structure Descriptor where
  kind : Kind
  enc : Word
  srcs : List RegId
  dsts : List RegId
  rra : Rra
  fields : FormatFields
  deriving DecidableEq, Repr

/-- The format fields of an instruction of a kind (R81 to R83, R86). -/
def formatFields : Instr → Option FormatFields
  | .add rd rs rt => some (.rFormat rs rt rd)
  | .sub rd rs rt => some (.rFormat rs rt rd)
  | .andi rt rs imm16 => some (.iFormat rs rt imm16)
  | .lw rt rs off16 => some (.iFormat rs rt off16)
  | .sw rt rs off16 => some (.iFormat rs rt off16)
  | .j index26 => some (.jFormat index26)
  | .nop => none
  | .run _ => none
  | .setupFwd _ _ => none
  | .flushAll => none
  | .read _ => none

/-- The descriptor of a program instruction (R110). `enc` is recomputed: every bit of a word is a fixed bit or a field bit. -/
def describe (i : Instr) : Option Descriptor :=
  match i.kind?, formatFields i with
  | some k, some f => some ⟨k, encode i, srcs i, dsts i, k.rra, f⟩
  | _, _ => none

end Sys2Proof.Machine
end

