-- ==== Sys2Proof/Machine/Arith.lean ====
section
/-! DEFINITION. The execute behaviours of add, sub and andi (R123 to R126). Each reads registers when it runs (R112), writes the
record's internal result only, and sets no flag (R118). Their other behaviours are the shared ones of Machine/Stage.lean. -/

namespace Sys2Proof.Machine

/-- behE of `add`: modulo 2^32, no trap on overflow (R123). -/
def addE (rs rt : RegId) (s : State) (I : InFlight) : InFlight := { I with res := s.x rs + s.x rt }

/-- behE of `sub`: minuend rs, subtrahend rt, modulo 2^32 (R124). -/
def subE (rs rt : RegId) (s : State) (I : InFlight) : InFlight := { I with res := s.x rs - s.x rt }

/-- behE of `andi`: the immediate is zero-extended (R125). -/
def andiE (rs : RegId) (imm16 : BitVec 16) (s : State) (I : InFlight) : InFlight :=
  { I with res := s.x rs &&& zext32 imm16 }

end Sys2Proof.Machine
end

