-- ==== Sys2Proof/Machine/Jump.lean ====
section
/-! DEFINITION. The execute behaviour of j (R122). It names a target and writes nothing itself: the PSC is the only writer of
`pc` (R117). -/

namespace Sys2Proof.Machine

/-- behE of `j`: the target of the redirection; the upper four bits come from the jump's own address + 4, not from `pc`
(R122). -/
def jE (index26 : BitVec 26) (I : InFlight) : Word := jumpTarget I.addr index26

end Sys2Proof.Machine
end

