-- ==== Sys2Proof/Machine/LoadStore.lean ====
section
/-! DEFINITION. The behaviours of lw and sw (R120, R121). The address, and a store's data, are read in E; the access is in M and
is repeated in every cycle the record spends there (R66, R113). -/

namespace Sys2Proof.Machine

/-- behE of `lw`: base plus signed offset, 32-bit wrap (R120). -/
def lwE (rs : RegId) (off16 : BitVec 16) (s : State) (I : InFlight) : InFlight := { I with ea := s.x rs + sext32 off16 }

/-- behM of `lw`: the alignment check comes before the read (R120, R287). -/
def lwM (s : State) (I : InFlight) : Except FaultKind InFlight :=
  if wordAligned I.ea then .ok { I with res := s.memRead I.ea } else .error .misalignedData

/-- behE of `sw`: the address and the store data (R121). -/
def swE (rs rt : RegId) (off16 : BitVec 16) (s : State) (I : InFlight) : InFlight :=
  { I with ea := s.x rs + sext32 off16, sdata := s.x rt }

/-- behM of `sw`: the alignment check comes before the write (R121, R287). -/
def swM (s : State) (I : InFlight) : Except FaultKind State :=
  if wordAligned I.ea then .ok (s.memWrite I.ea I.sdata) else .error .misalignedData

end Sys2Proof.Machine
end

