-- ==== Sys2Proof/Machine/Stage.lean ====
section
/-! DEFINITION. The stage operations of 41_pipeline_stage.md: the behaviour of each stage on a record (R153), `doExecute`
(R152), `load` (R151), `flush` (R155) and the killing of a record (R233). -/

namespace Sys2Proof.Machine

/-- What a stage behaviour leaves: the record with its internal result, the state with the register file or the data memory
written, and the target of a control-flow kind (R110). -/
structure Behaved where
  record : InFlight
  state : State
  target : Option Word

/-- behD does nothing: the word was decoded at construction and decoding again changes nothing (R111). -/
def behD (s : State) (I : InFlight) : Behaved := ⟨I, s, none⟩

/-- behE reads registers and writes `res`, `ea`, `sdata`, or returns a target (R112, R117). A command never stands in a record
(log 15). -/
def behE (s : State) (I : InFlight) : Behaved :=
  match I.instr with
  | .add _ rs rt => ⟨addE rs rt s I, s, none⟩
  | .sub _ rs rt => ⟨subE rs rt s I, s, none⟩
  | .andi _ rs imm16 => ⟨andiE rs imm16 s I, s, none⟩
  | .lw _ rs off16 => ⟨lwE rs off16 s I, s, none⟩
  | .sw rt rs off16 => ⟨swE rs rt off16 s I, s, none⟩
  | .j index26 => ⟨I, s, some (jE index26 I)⟩
  | .nop => ⟨I, s, none⟩
  | .run _ => ⟨I, s, none⟩
  | .setupFwd _ _ => ⟨I, s, none⟩
  | .flushAll => ⟨I, s, none⟩
  | .read _ => ⟨I, s, none⟩

/-- behM performs the access of lw and sw and is a no-op for every other instruction (R113). -/
def behM (s : State) (I : InFlight) : Except FaultKind Behaved :=
  match I.instr with
  | .add _ _ _ => .ok ⟨I, s, none⟩
  | .sub _ _ _ => .ok ⟨I, s, none⟩
  | .andi _ _ _ => .ok ⟨I, s, none⟩
  | .lw _ _ _ => (lwM s I).map fun I' => ⟨I', s, none⟩
  | .sw _ _ _ => (swM s I).map fun s' => ⟨I, s', none⟩
  | .j _ => .ok ⟨I, s, none⟩
  | .nop => .ok ⟨I, s, none⟩
  | .run _ => .ok ⟨I, s, none⟩
  | .setupFwd _ _ => .ok ⟨I, s, none⟩
  | .flushAll => .ok ⟨I, s, none⟩
  | .read _ => .ok ⟨I, s, none⟩

/-- behW writes `res` into every destination, in list order; the only write to the register file (R114). -/
def behW (s : State) (I : InFlight) : Behaved := ⟨I, s.setXs (dsts I.instr) I.res, none⟩

/-- The behaviour of a stage (R153). Only M can fault and only E can return a target. -/
def behaviour : Stage → State → InFlight → Except FaultKind Behaved
  | .decode, s, I => .ok (behD s I)
  | .execute, s, I => .ok (behE s I)
  | .memory, s, I => behM s I
  | .writeback, s, I => .ok (behW s I)

/-- `kill(K)`: K's busy counts are given back and K is dropped (R233). -/
def kill (s : State) (K : InFlight) : State := s.lowerBusy (dsts K.instr)

/-- Kill what a slot holds, if anything. -/
def killSlot (s : State) : Option InFlight → State
  | none => s
  | some K => kill s K

/-- What running a stage's chain leaves: the slots before the shift, the state, and the redirection if there was one. -/
structure ChainRun where
  slots : List (Option InFlight)
  state : State
  target : Option Word

/-- The loop of `doExecute`: exit slot first, so the tail of the list runs before its head. Once an older record has redirected,
a younger one is killed and does not run (R152, D12). -/
def runChain (st : Stage) : List (Option InFlight) → State → Except FaultKind ChainRun
  | [], s => .ok ⟨[], s, none⟩
  | younger :: older, s =>
    match runChain st older s with
    | .error k => .error k
    | .ok r =>
      match r.target, younger with
      | some t, y => .ok ⟨none :: r.slots, killSlot r.state y, some t⟩
      | none, none => .ok ⟨none :: r.slots, r.state, none⟩
      | none, some I =>
        match behaviour st r.state I with
        | .error k => .error k
        | .ok b => .ok ⟨some b.record :: r.slots, b.state, b.target⟩

/-- What falls out of the exit slot. -/
def exitOf (l : List (Option InFlight)) : Option InFlight := l.getLast?.join

/-- The chain shifted by one toward the exit, its entry slot empty. -/
def shiftChain (l : List (Option InFlight)) : List (Option InFlight) := (none :: l).dropLast

/-- What `doExecute` returns (R152). -/
structure Emitted where
  out : Option InFlight
  target : Option Word
  state : State

/-- `doExecute(s)` (R152). -/
def doExecute (st : Stage) (s : State) : Except FaultKind Emitted :=
  match runChain st (s.slots st) s with
  | .error k => .error k
  | .ok r => .ok ⟨exitOf r.slots, r.target, r.state.setSlots st (shiftChain r.slots)⟩

/-- `load(s, e)` (R151): DoubleLoad when the entry slot is occupied. A chain has an entry slot, because every latency is at
least 1 (D18); a chain without one cannot take a load either (log 12). -/
def load (st : Stage) (e : Option InFlight) (s : State) : Except FaultKind State :=
  match s.slots st with
  | none :: older => .ok (s.setSlots st (e :: older))
  | some _ :: _ => .error .doubleLoad
  | [] => .error .doubleLoad

/-- `flush(s)` (R155): every slot empty; busy counts are the caller's. -/
def flush (st : Stage) (s : State) : State := s.setSlots st ((s.slots st).map fun _ => none)

/-- Bit `4*from + to` of FWD_CFG (R28). -/
def edgeBit (source target : Stage) : Nat := 4 * source.code.toNat + target.code.toNat

/-- The forwarding edge is enabled (R28). -/
def State.edgeOn (s : State) (source target : Stage) : Bool := s.fwdCfg.getLsbD (edgeBit source target)

/-- `acceptForwardingConfiguration(s, t)` (R156). -/
def acceptForwarding (source target : Stage) (s : State) : State :=
  { s with fwdCfg := s.fwdCfg ||| (1#16 <<< edgeBit source target) }

end Sys2Proof.Machine
end

