-- ==== Sys2Proof/Machine/Hazard.lean ====
section
/-! DEFINITION. The hazard detector, the forwarding arbiter and the stall count of 43_hazard_stall.md. -/

namespace Sys2Proof.Machine

/-- The values that live only within a cycle (R38): the fetched record and the records in transit. -/
structure Transit where
  fetched : Option InFlight
  outD : Option InFlight
  outE : Option InFlight
  outM : Option InFlight
  outW : Option InFlight
  deriving DecidableEq, Repr

/-- A chain's records with their positions, from the position of the chain's first slot on (R201). -/
def placed (pos : Nat) : List (Option InFlight) → List (InFlight × Nat)
  | [] => []
  | none :: rest => placed (pos + 1) rest
  | some I :: rest => (I, pos) :: placed (pos + 1) rest

/-- Every record in flight after step 3 with the position it will hold at the start of the next cycle, `pn` (R200, R201): the
shifted slots, and `out[D]`, `out[E]`, `out[M]` at the entry they are about to be loaded into. `out[W]` has retired. -/
def inFlightAt (t : Transit) (s : State) : List (InFlight × Nat) :=
  placed 0 s.allSlots
    ++ placed (s.lat.offset .execute) [t.outD]
    ++ placed (s.lat.offset .memory) [t.outE]
    ++ placed (s.lat.offset .writeback) [t.outM]

/-- A record is a producer of J when it will write one of J's sources (R200). -/
def isProducer (s : State) (J I : Instr) : Bool :=
  (srcs J).any fun r => (dsts I).contains r && 0 < s.busyOf r

/-- `producers(J)` with their positions (R200, R201). -/
def producers (t : Transit) (s : State) (J : Instr) : List (InFlight × Nat) :=
  (inFlightAt t s).filter fun p => isProducer s J p.1.instr

/-- The viability predicate (R203 to R206, R208): a relative offset d past retirement, or the exact lookahead of the enabled edge
that leaves the producer's rra stage. -/
def viable (lat : Latencies) (fwdCfg : BitVec 16) (rra : Option Rra) (d : Nat) : Bool :=
  lat.total ≤ d
    || (rra == some .ex && fwdCfg.getLsbD (edgeBit .execute .execute) && d == lat.e)
    || (rra == some .mem && fwdCfg.getLsbD (edgeBit .memory .execute) && d == lat.e + lat.m)

/-- k bubbles satisfy every producer at once (R207). -/
def allViable (lat : Latencies) (fwdCfg : BitVec 16) (prods : List (Option Rra × Nat)) (k : Nat) : Bool :=
  prods.all fun p => viable lat fwdCfg p.1 (p.2 + k)

/-- The search of R207: the smallest k in 0..P+1 that every producer allows, each given by its rra and its `pn`. -/
def searchStall (lat : Latencies) (fwdCfg : BitVec 16) (prods : List (Option Rra × Nat)) : Except FaultKind Nat :=
  match (List.range (lat.total + 2)).find? (allViable lat fwdCfg prods) with
  | some k => .ok k
  | none => .error .unconfiguredHazard

/-- `stallCount(J)` (R207). -/
def stallCount (t : Transit) (s : State) (J : Instr) : Except FaultKind Nat :=
  searchStall s.lat s.fwdCfg ((producers t s J).map fun p => (rraOf p.1.instr, p.2))

end Sys2Proof.Machine
end

