-- ==== Sys2Proof/Machine/Redirect.lean ====
section
/-! DEFINITION. The redirection of 44_redirect.md. -/

namespace Sys2Proof.Machine

/-- Kill every record of a chain, exit slot first (R231). -/
def killChain (l : List (Option InFlight)) (s : State) : State := l.foldr (fun e t => killSlot t e) s

/-- Kill what a queue entry holds; a bubble is no record (R231). -/
def killEntry (s : State) : QEntry → State
  | .bubble => s
  | .held K => kill s K

/-- `redirect(t)` (R231): `pc <- t`, the D slots and the queue are killed. The younger E records were killed by `doExecute(E)`, and
the caller drops this cycle's fetch, whose busy counts were never raised. -/
def redirect (t : Word) (s : State) : State :=
  let killed := s.queue.foldl killEntry (killChain s.slotD s)
  { killed with pc := t, slotD := s.slotD.map fun _ => none, queue := [] }

end Sys2Proof.Machine
end

