-- ==== Sys2Proof/Machine/Cycle.lean ====
section
/-! DEFINITION. The cycle algorithm of 42_cycle.md: the five steps in their order, and the whole cycle with its rollback. -/

namespace Sys2Proof.Machine

/-- The instruction that step 1 fetches: the one at `pc`, and only when no stall is queued (R171, D1). -/
def fetchAt (s : State) : Option Instr := if s.queue.isEmpty then imem s.prog s.pc else none

/-- Step 1, fetch (R171, R183), given what instruction memory answers: the record, and `pc` advanced by 4. Nothing is fetched
while the queue is not empty. -/
def fetchStep (found : Option Instr) (s : State) : Option InFlight × State :=
  if s.queue.isEmpty then
    match found with
    | some i => (some (InFlight.fresh i s.pc), { s with pc := s.pc + 4#32 })
    | none => (none, s)
  else (none, s)

/-- The redirection of step 2, if E returned a target, before D is drained; this cycle's fetch is then discarded (R172,
R231). -/
def redirectStep (target : Option Word) (fetched : Option InFlight) (s : State) : Option InFlight × State :=
  match target with
  | some t => (none, redirect t s)
  | none => (fetched, s)

/-- Step 2, drain: W, M, E, the redirection, D (R172). -/
def drainStep (fetched : Option InFlight) (s : State) : Except FaultKind (Transit × State) := do
  let w ← doExecute .writeback s
  let m ← doExecute .memory w.state
  let e ← doExecute .execute m.state
  let f := redirectStep e.target fetched e.state
  let d ← doExecute .decode f.2
  pure (⟨f.1, d.out, e.out, m.out, w.out⟩, d.state)

/-- `traceRecord(I)` (R180): the value is the signed view of the first destination, read after this cycle's W behaviour. -/
def traceRecord (s : State) (I : InFlight) : CommitRecord where
  name := (I.instr.kind?.map Kind.label).getD ""
  addr := I.addr
  value := (dsts I.instr).head?.map fun r => (s.x r).toInt

/-- Step 3, retire (R173). -/
def retireStep (outW : Option InFlight) (s : State) : State :=
  match outW with
  | some I =>
    let lowered := s.lowerBusy (dsts I.instr)
    { lowered with committed := s.committed + 1#64, trace := s.trace ++ [traceRecord s I] }
  | none => { s with stalls := s.stalls + 1#64 }

/-- Step 4, issue (R174): k bubbles and the instruction, or a single bubble when the pipeline idles. -/
def issueStep (t : Transit) (s : State) : Except FaultKind State :=
  match t.fetched with
  | some J =>
    match stallCount t s J.instr with
    | .error k => .error k
    | .ok k =>
      let queued := { s with
        queue := s.queue ++ List.replicate k QEntry.bubble ++ [QEntry.held J]
        hazardBubbles := s.hazardBubbles + BitVec.ofNat 64 k }
      .ok (queued.raiseBusy (dsts J.instr))
  | none => .ok (if s.queue.isEmpty then { s with queue := [.bubble] } else s)

/-- What decode is loaded with: the record at the queue's head, or nothing for a bubble (R175). -/
def QEntry.toSlot : QEntry → Option InFlight
  | .bubble => none
  | .held I => some I

/-- Step 5, load (R175). The queue is never empty here, because step 4 saw to it; an empty one would load nothing (log 12). -/
def loadStep (t : Transit) (s : State) : Except FaultKind State := do
  let s ← load .writeback t.outM s
  let s ← load .memory t.outE s
  let s ← load .execute t.outD s
  load .decode ((s.queue.head?.map QEntry.toSlot).join) { s with queue := s.queue.tail }

/-- The five steps and `started <- 1` (R177, R176), given what instruction memory holds at `pc`. -/
def cycleTry (found : Option Instr) (s : State) : Except FaultKind State := do
  let f := fetchStep found s
  let d ← drainStep f.1 f.2
  let r := retireStep d.1.outW d.2
  let q ← issueStep d.1 r
  let l ← loadStep d.1 q
  pure { l with started := true }

/-- The cycle (R177), given what instruction memory holds at `pc`: nothing in the FAULTED state, and a fault discards the whole
cycle but for its code (R170, R289). -/
def cycleWith (found : Option Instr) (s : State) : State :=
  if s.fault = 0#4 then
    match cycleTry found s with
    | .ok s' => s'
    | .error k => enterFaulted k s
  else s

/-- The cycle of a PSC (R177): step 1 looks at `imem(pc)`. -/
def cycle (s : State) : State := cycleWith (imem s.prog s.pc) s

/-- n cycles, one after the other: R253's loop, since a cycle does nothing once FAULTED. -/
def cycles : Nat → State → State
  | 0, s => s
  | n + 1, s => cycles n (cycle s)

/-- n cycles in which step 1 finds no instruction: the pipeline drains (R179, R183). -/
def drainCycles : Nat → State → State
  | 0, s => s
  | n + 1, s => drainCycles n (cycleWith none s)

end Sys2Proof.Machine
end

