-- ==== Sys2Proof/Machine/ExecKinds.lean ====
section
/-! DEFINITION. The meanings of the six program kinds as `exec` answers them. The PSC runs a program instruction by fetching it
in step 1 of a cycle (R171, R177): the meaning of one is that whole cycle, in which its record is made, its stall count found
and its bubbles and itself queued, while every older record's behaviour runs. Its own behE, behM and behW (Machine/Arith.lean,
LoadStore.lean, Jump.lean, Stage.lean) run in the cycles in which its record is in those stages (log 7). -/

namespace Sys2Proof.Machine

/-- `add rd, rs, rt` (R123). -/
def execAdd (rd rs rt : RegId) (s : State) : Host.Outcome State Fault Refusal :=
  .next (cycleWith (some (.add rd rs rt)) s)

/-- `sub rd, rs, rt` (R124). -/
def execSub (rd rs rt : RegId) (s : State) : Host.Outcome State Fault Refusal :=
  .next (cycleWith (some (.sub rd rs rt)) s)

/-- `andi rt, rs, imm16` (R125). -/
def execAndi (rt rs : RegId) (imm16 : BitVec 16) (s : State) : Host.Outcome State Fault Refusal :=
  .next (cycleWith (some (.andi rt rs imm16)) s)

/-- `lw rt, off16(rs)` (R120). -/
def execLw (rt rs : RegId) (off16 : BitVec 16) (s : State) : Host.Outcome State Fault Refusal :=
  .next (cycleWith (some (.lw rt rs off16)) s)

/-- `sw rt, off16(rs)` (R121). -/
def execSw (rt rs : RegId) (off16 : BitVec 16) (s : State) : Host.Outcome State Fault Refusal :=
  .next (cycleWith (some (.sw rt rs off16)) s)

/-- `j target` (R122). -/
def execJ (index26 : BitVec 26) (s : State) : Host.Outcome State Fault Refusal :=
  .next (cycleWith (some (.j index26)) s)

end Sys2Proof.Machine
end

