-- ==== Sys2Proof/Machine/Flags.lean ====
section
/-! DEFINITION. The only status bits of the design: DONE, STARTED and FAULTED, and the STATUS word that holds them (R35, R36).
There are no condition codes and no instruction sets a flag (R35, R118). -/

namespace Sys2Proof.Machine

/-- `isDone`: every slot of every stage is empty. It does not look at the queue, `pc` or `fault` (R178). -/
def State.isDone (s : State) : Bool := s.allSlots.all Option.isNone

/-- FAULTED: `fault ≠ 0` (R36). -/
def State.isFaulted (s : State) : Bool := s.fault != 0#4

/-- STATUS (R36): bit 0 DONE, bit 1 STARTED, bit 2 FAULTED, bits 7:4 the code, every other bit 0. -/
def State.statusWord (s : State) : Word :=
  0#24 ++ s.fault ++ 0#1 ++ BitVec.ofBool s.isFaulted ++ BitVec.ofBool s.started ++ BitVec.ofBool s.isDone

end Sys2Proof.Machine
end

