-- ==== Sys2Proof/Machine/Status.lean ====
section
/-! DEFINITION. What the host reads: the status registers of R36 and the metrics of R258 to R260. -/

namespace Sys2Proof.Machine

/-- The smaller of two frequencies. -/
def minWord (a b : Word) : Word := if a.toNat ≤ b.toNat then a else b

/-- `EFF_FREQ = min(F_D, F_E, F_M, F_W)` (R258). -/
def effFreq (f : Frequencies) : Word := minWord (minWord f.d f.e) (minWord f.m f.w)

/-- LAT_CFG: the four latencies, L_W in the top byte (R36). -/
def latWord (l : Latencies) : Word :=
  BitVec.ofNat 8 l.w ++ BitVec.ofNat 8 l.m ++ BitVec.ofNat 8 l.e ++ BitVec.ofNat 8 l.d

/-- The low half of a counter (R36). -/
def loWord (c : Counter) : Word := c.extractLsb' 0 32

/-- The high half of a counter (R36). -/
def hiWord (c : Counter) : Word := c.extractLsb' 32 32

/-- The status register at an index (R36). A reserved index reads 0 (R256). A length or a busy count is read as a Word, modulo
2^32 (log 13). -/
def State.statusAt (s : State) (index : BitVec 8) : Word :=
  match index.toNat with
  | 0x00 => s.statusWord
  | 0x01 => s.pc
  | 0x02 => loWord s.committed
  | 0x03 => hiWord s.committed
  | 0x04 => loWord s.stalls
  | 0x05 => hiWord s.stalls
  | 0x06 => loWord s.hazardBubbles
  | 0x07 => hiWord s.hazardBubbles
  | 0x08 => 0#16 ++ s.fwdCfg
  | 0x09 => latWord s.lat
  | 0x0A => effFreq s.freq
  | 0x0B => BitVec.ofNat 32 s.queue.length
  | 0x0C => BitVec.ofNat 32 s.prog.length
  | n => if 0x20 ≤ n ∧ n < 0x40 then BitVec.ofNat 32 (s.busyOf (BitVec.ofNat 5 (n - 0x20))) else 0#32

/-- `numberOfInstructions()` (R260). -/
def State.numberOfInstructions (s : State) : Nat := s.committed.toNat

/-- The stall ratio, which the host computes: exact, in [0, 1], and 0 when no cycle has run (R259). -/
def State.stallRatio (s : State) : Rat :=
  if s.committed.toNat + s.stalls.toNat = 0 then 0
  else (s.stalls.toNat : Rat) / ((s.committed.toNat + s.stalls.toNat : Nat) : Rat)

end Sys2Proof.Machine
end

