-- ==== Sys2Proof/Machine/HostCommands.lean ====
section
/-! DEFINITION. The meanings of the five host commands and of a reserved word (45_host_commands.md). A fault is a next state:
the command changes nothing but the code (R262, R289). -/

namespace Sys2Proof.Machine

/-- NOP does nothing in any state (R255). -/
def execNop (s : State) : Host.Outcome State Fault Refusal := .next s

/-- RUN(n) (R253): n cycles are due, which the next n steps carry out before any other input is taken (log 6); nothing in the
FAULTED state. -/
def execRun (n : BitVec 24) (s : State) : Host.Outcome State Fault Refusal :=
  .next (if s.fault = 0#4 then { s with runLeft := n.toNat } else s)

/-- The edges that have a meaning: EX→EX and MEM→EX (R252, R285). -/
def edgeSupported (source target : Stage) : Bool :=
  (source == .execute && target == .execute) || (source == .memory && target == .execute)

/-- SETUP_FWD(from, to), its checks in the order of R252. -/
def execSetupFwd (source target : Stage) (s : State) : Host.Outcome State Fault Refusal :=
  .next (
    if s.fault != 0#4 then s
    else if s.started then enterFaulted .lateConfiguration s
    else if !edgeSupported source target then enterFaulted .unsupportedForwardingEdge s
    else acceptForwarding source target s)

/-- Every stage flushed (R254). -/
def flushStages (s : State) : State := flush .writeback (flush .memory (flush .execute (flush .decode s)))

/-- FLUSH_ALL (R254): slots, queue and busy counts; nothing else. -/
def execFlushAll (s : State) : Host.Outcome State Fault Refusal :=
  .next (if s.fault = 0#4 then { flushStages s with queue := [], busy := Vector.replicate 32 0 } else s)

/-- READ(index) (R256): the response, in every state; nothing of the PSC changes. -/
def execRead (index : BitVec 8) (s : State) : Host.Outcome State Fault Refusal :=
  .next { s with responses := s.responses ++ [s.statusAt index] }

/-- A reserved command word: IllegalCommand, and nothing in the FAULTED state (R93, R262, R286). -/
def reservedCommand (s : State) : State := enterFaulted .illegalCommand s

/-- A RUN stops when the PSC is FAULTED: its remaining cycles do not run (R253). -/
def stopRun (s : State) : State := { s with runLeft := 0 }

end Sys2Proof.Machine
end

