-- ==== Sys2Proof/Machine/Dispatch.lean ====
section
/-! DEFINITION. The meaning of every instruction, one arm per row of the opcode table. -/

namespace Sys2Proof.Machine

def exec (i : Instr) (s : State) : Host.Outcome State Fault Refusal :=
  match i with
  | .add rd rs rt => Sys2Proof.Machine.execAdd rd rs rt s
  | .sub rd rs rt => Sys2Proof.Machine.execSub rd rs rt s
  | .andi rt rs imm16 => Sys2Proof.Machine.execAndi rt rs imm16 s
  | .lw rt rs off16 => Sys2Proof.Machine.execLw rt rs off16 s
  | .sw rt rs off16 => Sys2Proof.Machine.execSw rt rs off16 s
  | .j index26 => Sys2Proof.Machine.execJ index26 s
  | .nop => Sys2Proof.Machine.execNop s
  | .run n => Sys2Proof.Machine.execRun n s
  | .setupFwd source target => Sys2Proof.Machine.execSetupFwd source target s
  | .flushAll => Sys2Proof.Machine.execFlushAll s
  | .read index => Sys2Proof.Machine.execRead index s

end Sys2Proof.Machine
end

