-- ==== Sys2Proof/Machine/Step.lean ====
section
/-! DEFINITION. One step of the machine: one cycle of the RUN being carried out, or the host's next input (R250; log 6). -/

namespace Sys2Proof.Machine

/-- A cycle of a RUN: the instruction that step 1 fetches is executed, or a cycle runs in which nothing is fetched (R171). -/
def runStep (s : State) : Host.Outcome State Fault Refusal :=
  match fetchAt s with
  | some i => exec i s
  | none => .next (cycleWith none s)

/-- The host's next input (R250): a command word is decoded and executed, a reserved word faults, CONSTRUCT makes a new PSC. With
no input the PSC keeps its state (R300). -/
def hostStep (s : State) : Host.Outcome State Fault Refusal :=
  match s.inbox with
  | [] => .next s
  | .construct a :: later => takeConstruct a later
  | .command w :: later =>
    match decodeCommand w with
    | .ok c => exec c { s with inbox := later }
    | .error _ => .next (reservedCommand { s with inbox := later })

/-- One step. While cycles of a RUN are due no input is taken (R170, R250); a fault stops the RUN (R253). -/
def step (s : State) : Host.Outcome State Fault Refusal :=
  match s.runLeft with
  | 0 => hostStep s
  | n + 1 => if s.fault = 0#4 then runStep { s with runLeft := n } else .next (stopRun s)

/-- `s` with the instruction of a table word placed where the next step fetches (log 5). A program instruction becomes the whole
program, at BASE, with `pc` there, the queue empty, no fault, and one cycle of a RUN due: the load that CONSTRUCT stands for and the
RUN(1) that fetches it. Any other word becomes the host's next input. -/
def State.withFetchWord (s : State) (nbits w : Nat) : State :=
  match decodeTableWord nbits w with
  | some i =>
    if i.isProgram then { s with prog := [i], pc := Config.base, queue := [], fault := 0#4, runLeft := 1 }
    else { s with inbox := .command (BitVec.ofNat 32 w) :: s.inbox, runLeft := 0 }
  | none => { s with inbox := .command (BitVec.ofNat 32 w) :: s.inbox, runLeft := 0 }

end Sys2Proof.Machine
end

