-- ==== Sys2Proof/Safety.lean ====
section
/-! DEFINITION. What counts as a safe run, and the invariants of 42_cycle.md R182 in the terms claims use. -/

namespace Sys2Proof.Machine

/-- A PSC that is not FAULTED (R289). -/
abbrev State.Safe (s : State) : Prop := s.fault = 0#4

/-- A run of n cycles that meets no fault (R289). -/
abbrev State.SafeFor (s : State) (n : Nat) : Prop := (cycles n s).fault = 0#4

/-- The records that stand in slots, by position. -/
def State.slotRecords (s : State) : List InFlight := s.allSlots.filterMap id

/-- The record a queue entry holds. -/
def QEntry.record? : QEntry → Option InFlight
  | .bubble => none
  | .held I => some I

/-- Every in-flight record, in the slots or in the queue (R25). -/
def State.records (s : State) : List InFlight := s.slotRecords ++ s.queue.filterMap QEntry.record?

/-- The occurrences of r in the `dsts` of all in-flight records (R25). -/
def State.inFlightWrites (s : State) (r : RegId) : Nat := (s.records.flatMap fun I => dsts I.instr).count r

/-- The record at a global position (R11). -/
def State.recordAt (s : State) (q : Nat) : Option InFlight := s.allSlots[q]?.join

/-- What a record keeps while it moves: its instruction and its address (R23). -/
def InFlight.identity (I : InFlight) : Instr × Word := (I.instr, I.addr)

/-- Every stage has its L_s slots, at least one (R22, D18). -/
structure State.Sized (s : State) : Prop where
  latencies : s.lat.wf = true
  decode : s.slotD.length = s.lat.d
  execute : s.slotE.length = s.lat.e
  memory : s.slotM.length = s.lat.m
  writeback : s.slotW.length = s.lat.w

/-- Nothing is in flight and there is no fault: every slot and the queue are empty. -/
structure State.Drained (s : State) : Prop where
  sized : s.Sized
  safe : s.Safe
  done : s.isDone = true
  queue : s.queue = []

/-- The queue of HOLD(j, I): j bubbles and one record (R24, R210). -/
def holdQueue (j : Nat) (I : InFlight) : List QEntry := List.replicate j QEntry.bubble ++ [QEntry.held I]

/-- R182.2: the queue is empty, or HOLD(j, I) with j at most P - 2. -/
def State.QueueShaped (s : State) : Prop :=
  s.queue = [] ∨ ∃ j I, s.queue = holdQueue j I ∧ j + 2 ≤ s.lat.total

/-- The reason of R213 for R182.6: while j bubbles are still to come before a held record, a record that has passed the entry of
decode is at a position p with p + j at most P - 1, so it is still in a slot when the last of them goes in. -/
def State.HoldBacked (s : State) : Prop :=
  ∀ j I, s.queue = holdQueue j I → ∃ p, 1 ≤ p ∧ p + j < s.lat.total ∧ (s.recordAt p).isSome = true

/-- R182.3: each busy count is the number of in-flight writes to its register. -/
def State.BusyExact (s : State) : Prop := ∀ r : RegId, s.busyOf r = s.inFlightWrites r

/-- k bubbles release J into a pipeline as a cycle leaves it (R200 to R208): each record past the entry of decode that will write a
source of J, k positions further on, has retired, or is at the exact offset of the enabled edge that leaves its rra stage. -/
def State.Releases (t : State) (J : Instr) (k : Nat) : Prop :=
  ∀ p K, 1 ≤ p → t.recordAt p = some K → (∃ r ∈ srcs J, r ∈ dsts K.instr) →
    t.lat.total ≤ p + k ∨
    (rraOf K.instr = some .ex ∧ t.fwdCfg.getLsbD 5 = true ∧ p + k = t.lat.e) ∨
    (rraOf K.instr = some .mem ∧ t.fwdCfg.getLsbD 9 = true ∧ p + k = t.lat.e + t.lat.m)

/-- Every in-flight record is the program's instruction at its own address (R23, R171). -/
def State.FromProgram (s : State) : Prop := ∀ I ∈ s.records, imem s.prog I.addr = some I.instr

/-- The codes a PSC's `fault` register can hold: none, and the four that a run can raise. MalformedEncoding and BadConfiguration
belong to a PSC that never existed (R281, R288); DoubleLoad and UnconfiguredHazard are unreachable (R282, R283). -/
def reachableCode (c : BitVec 4) : Bool :=
  c == 0#4 || c == FaultKind.lateConfiguration.code || c == FaultKind.unsupportedForwardingEdge.code
    || c == FaultKind.illegalCommand.code || c == FaultKind.misalignedData.code

/-- The invariant of the machine. -/
structure State.Inv (s : State) : Prop where
  /-- R22: the slot chains have their lengths. -/
  sized : s.Sized
  /-- R6, R94: the program holds kinds only, and its addresses do not pass 0xFFFFFFFC. -/
  program : programWf s.prog = true
  /-- R6: no frequency is 0. -/
  frequencies : s.freq.wf = true
  /-- R24, R182.2. -/
  queueShaped : s.QueueShaped
  /-- R213, the reason of R182.6. -/
  holdBacked : s.HoldBacked
  /-- R25, R182.3. -/
  busyExact : s.BusyExact
  /-- R23. -/
  fromProgram : s.FromProgram
  /-- R28: only bits 5 and 9 of FWD_CFG can be 1. -/
  fwdCfg : s.fwdCfg &&& 0xFDDF#16 = 0#16
  /-- R64: `pc` stays 4-aligned with the reference kinds. -/
  pcAligned : s.pc.extractLsb' 0 2 = 0#2
  /-- The data memory keeps its canonical form. -/
  memory : Memory.wf s.dmem = true
  /-- R280 to R288. -/
  code : reachableCode s.fault = true
  /-- R29, R32: one trace record for each commit. -/
  trace : BitVec.ofNat 64 s.trace.length = s.committed
  /-- R251: a PSC that exists was constructed with result 0. -/
  constructed : s.constructResult = 0#4

end Sys2Proof.Machine
end

