-- ==== Sys2Proof/Certificates/Slice0/Obligations.lean ====
section
/-! DEFINITION. The statements for the provers. Each names the rules of spec/ it comes from; OBLIGATIONS.json lists them. -/

open Sys2Proof Sys2Proof.Machine

/-! ### Encoding -/

/-- R81 to R86, R94: a program instruction's word decodes back to it as its own kind. -/
def Obligations.ProgramWordsRoundTrip : Prop :=
  ∀ (i : Instr) (k : Kind), i.kind? = some k → decodeAs k (encode i) = .ok i

/-- R91, R92: a command's word decodes back to it. -/
def Obligations.CommandWordsRoundTrip : Prop :=
  ∀ i : Instr, i.isCommand = true → decodeCommand (encode i) = .ok i

/-- R84, R87, R92: an accepted word is the word of the instruction it decodes to, so no bit of it is dropped. -/
def Obligations.AcceptedWordsReencode : Prop :=
  (∀ (k : Kind) (w : Word) (i : Instr), decodeAs k w = .ok i → i.kind? = some k ∧ encode i = w) ∧
  (∀ (w : Word) (i : Instr), decodeCommand w = .ok i → i.isCommand = true ∧ encode i = w)

/-- R92, R94: no word is legal for two kinds, and none selects two commands: two instructions of one space whose rows accept one word
are of the same row, the same kind and the same constructor. -/
def Obligations.RowsOfOneSpaceAreDisjoint : Prop :=
  ∀ (w : Word) (i i' : Instr), i.isProgram = i'.isProgram → i.row.accepts w = true → i'.row.accepts w = true →
    i.row = i'.row ∧ i.kind? = i'.kind? ∧ i.ctorIdx = i'.ctorIdx

/-- R86, R110, R115: the ordered `srcs` and `dsts`, the `rra` and the format fields of the six kinds. -/
def Obligations.OperandsOfTheKinds : Prop :=
  (∀ rd rs rt : RegId,
    describe (.add rd rs rt) = some ⟨.add, encode (.add rd rs rt), [rs, rt], [rd], .ex, .rFormat rs rt rd⟩ ∧
    describe (.sub rd rs rt) = some ⟨.sub, encode (.sub rd rs rt), [rs, rt], [rd], .ex, .rFormat rs rt rd⟩) ∧
  (∀ (rt rs : RegId) (imm16 : BitVec 16),
    describe (.andi rt rs imm16) = some ⟨.andi, encode (.andi rt rs imm16), [rs], [rt], .ex, .iFormat rs rt imm16⟩ ∧
    describe (.lw rt rs imm16) = some ⟨.lw, encode (.lw rt rs imm16), [rs], [rt], .mem, .iFormat rs rt imm16⟩ ∧
    describe (.sw rt rs imm16) = some ⟨.sw, encode (.sw rt rs imm16), [rs, rt], [], .mem, .iFormat rs rt imm16⟩) ∧
  (∀ index26 : BitVec 26, describe (.j index26) = some ⟨.j, encode (.j index26), [], [], .ex, .jFormat index26⟩) ∧
  (∀ (i : Instr) (d : Descriptor), describe i = some d → srcs i = d.srcs ∧ dsts i = d.dsts ∧ rraOf i = some d.rra)

/-- R94's worked encodings and R91's layouts: a few words, written out, decode to what they stand for. -/
def Obligations.WorkedWordsDecode : Prop :=
  decodeAs .add 0x00430820#32 = .ok (.add 1#5 2#5 3#5) ∧
  decodeAs .sub 0x00622022#32 = .ok (.sub 4#5 3#5 2#5) ∧
  decodeAs .andi 0x304100FF#32 = .ok (.andi 1#5 2#5 0x00FF#16) ∧
  decodeAs .lw 0x8C030010#32 = .ok (.lw 3#5 0#5 0x0010#16) ∧
  decodeAs .sw 0xAC020010#32 = .ok (.sw 2#5 0#5 0x0010#16) ∧
  decodeAs .j 0x08000004#32 = .ok (.j 4#26) ∧
  decodeAs .add 0x00430860#32 = .error (.malformedEncoding .add) ∧
  decodeCommand 0x00001E01#32 = .ok (.run 30#24) ∧
  decodeCommand 0x00000062#32 = .ok (.setupFwd .memory .execute) ∧
  decodeCommand 0x00002104#32 = .ok (.read 0x21#8) ∧
  decodeCommand 0x00000103#32 = .error .illegalCommand

/-! ### Construction and reset -/

/-- R251, R288, R290: MalformedEncoding exactly when some word does not match its claimed kind; BadConfiguration exactly when
every word decodes and a latency, a frequency or the length is out of range. -/
def Obligations.ConstructRefusals : Prop :=
  ∀ a : ConstructArgs,
    (construct a = .error .malformedEncoding ↔ ∃ p ∈ a.program, decodeAs p.1 p.2 = .error (.malformedEncoding p.1)) ∧
    (construct a = .error .badConfiguration ↔
      (∀ p ∈ a.program, ∃ i, decodeAs p.1 p.2 = .ok i) ∧
        ¬ ((∀ n ∈ [a.lat.d, a.lat.e, a.lat.m, a.lat.w], 1 ≤ n ∧ n ≤ 255) ∧
            (∀ f ∈ [a.freq.d, a.freq.e, a.freq.m, a.freq.w], f ≠ 0#32) ∧ a.program.length ≤ 0x30000000))

/-- R39, R310, R311: what a successful CONSTRUCT leaves. That an address outside MEM0's list reads 0 is the model's choice
(log 2), and so is that a later pair of the list stands for an address given twice (log 14). -/
def Obligations.ConstructGivesResetValues : Prop :=
  ∀ a : ConstructArgs,
    (∀ p ∈ a.program, ∃ i, decodeAs p.1 p.2 = .ok i) → (∀ n ∈ [a.lat.d, a.lat.e, a.lat.m, a.lat.w], 1 ≤ n ∧ n ≤ 255) →
    (∀ f ∈ [a.freq.d, a.freq.e, a.freq.m, a.freq.w], f ≠ 0#32) → a.program.length ≤ 0x30000000 →
    ∃ s, construct a = .ok s ∧
      s.lat = a.lat ∧ s.freq = a.freq ∧
      s.slotD = List.replicate a.lat.d none ∧ s.slotE = List.replicate a.lat.e none ∧
      s.slotM = List.replicate a.lat.m none ∧ s.slotW = List.replicate a.lat.w none ∧
      s.queue = [] ∧ (∀ r, s.busyOf r = 0) ∧ s.pc = 0x40000000#32 ∧ s.fwdCfg = 0#16 ∧
      s.committed = 0#64 ∧ s.stalls = 0#64 ∧ s.hazardBubbles = 0#64 ∧ s.started = false ∧ s.fault = 0#4 ∧ s.trace = [] ∧
      s.regs = a.rf0 ∧
      (∀ b : Word, s.memRead b = ((a.mem0.reverse.find? fun p => p.1 == b).map fun p => p.2).getD 0#32) ∧
      s.statusWord = 0x00000001#32

/-- R60, R61: the i-th word of PROG, decoded, stands at BASE + 4*i, and no other address holds an instruction. -/
def Obligations.ConstructPlacesDecodedProgram : Prop :=
  ∀ (a : ConstructArgs) (s : State), construct a = .ok s →
    (∀ (n : Nat) (k : Kind) (w : Word), a.program[n]? = some (k, w) →
      ∃ i, decodeAs k w = .ok i ∧ imem s.prog (0x40000000#32 + BitVec.ofNat 32 (4 * n)) = some i) ∧
    (∀ b : Word, (¬ ∃ n, n < a.program.length ∧ b = 0x40000000#32 + BitVec.ofNat 32 (4 * n)) → imem s.prog b = none)

/-- R310, R39: what reset leaves of the values the spec gives (the construction arguments of State.reset are the model's choice,
log 2 to 4). -/
def Obligations.ResetLeavesSpecValues : Prop :=
  State.reset.pc = 0x40000000#32 ∧ State.reset.queue = [] ∧ State.reset.isDone = true ∧ State.reset.fwdCfg = 0#16 ∧
  State.reset.committed = 0#64 ∧ State.reset.stalls = 0#64 ∧ State.reset.hazardBubbles = 0#64 ∧
  State.reset.started = false ∧ State.reset.fault = 0#4 ∧ State.reset.trace = [] ∧
  (∀ r : RegId, State.reset.busyOf r = 0) ∧ State.reset.statusAt 0x00#8 = 0x00000001#32

/-! ### The step -/

/-- R171, R253, R91: a step executes the instruction found at `pc` when a cycle is due and no stall is queued, and the command
the host's word decodes to when none is. One step as one cycle or one input is the model's form (log 6). -/
def Obligations.StepRunsDecodedInstruction : Prop :=
  (∀ (s : State) (n : Nat) (i : Instr), s.runLeft = n + 1 → s.fault = 0#4 → s.queue = [] → imem s.prog s.pc = some i →
    step s = exec i { s with runLeft := n }) ∧
  (∀ (s : State) (w : Word) (later : List HostInput) (c : Instr), s.runLeft = 0 → s.inbox = .command w :: later →
    decodeCommand w = .ok c → step s = exec c { s with inbox := later })

/-- R171, R183, R253, R300: a step that fetches nothing is a cycle without a fetch; a FAULTED PSC ends its RUN; without an input
nothing changes. That an input waits while cycles are due is the model's form of R250 (log 6). -/
def Obligations.StepWithoutFetchOrInput : Prop :=
  (∀ (s : State) (n : Nat), s.runLeft = n + 1 → s.fault = 0#4 → (s.queue ≠ [] ∨ imem s.prog s.pc = none) →
    step s = .next (cycleWith none { s with runLeft := n })) ∧
  (∀ s : State, s.runLeft ≠ 0 → s.fault ≠ 0#4 → step s = .next { s with runLeft := 0 }) ∧
  (∀ s : State, s.runLeft = 0 → s.inbox = [] → step s = .next s)

/-- R93, R262, R286: a word that selects no command raises IllegalCommand and changes nothing else, and does nothing in the FAULTED
state. That the input is taken from `inbox` is the model's form (log 6). -/
def Obligations.ReservedWordRaisesIllegalCommand : Prop :=
  ∀ (s : State) (w : Word) (later : List HostInput), s.runLeft = 0 → s.inbox = .command w :: later →
    (∀ i : Instr, i.isCommand = true → i.row.accepts w = false) →
    (s.fault = 0#4 → step s = .next { s with inbox := later, fault := 6#4 }) ∧
    (s.fault ≠ 0#4 → step s = .next { s with inbox := later })

/-- R93: operations 0x5 to 0xF, and a nonzero bit outside a command's fields, are reserved. -/
def Obligations.ReservedWordsAreThoseOfTheRule : Prop :=
  ∀ w : Word, (∃ e, decodeCommand w = .error e) ↔
    5 ≤ (w.extractLsb' 0 4).toNat ∨
    ((w.extractLsb' 0 4).toNat = 0 ∧ w.extractLsb' 4 28 ≠ 0#28) ∨
    ((w.extractLsb' 0 4).toNat = 1 ∧ w.extractLsb' 4 4 ≠ 0#4) ∨
    ((w.extractLsb' 0 4).toNat = 2 ∧ w.extractLsb' 8 24 ≠ 0#24) ∨
    ((w.extractLsb' 0 4).toNat = 3 ∧ w.extractLsb' 4 28 ≠ 0#28) ∨
    ((w.extractLsb' 0 4).toNat = 4 ∧ (w.extractLsb' 4 4 ≠ 0#4 ∨ w.extractLsb' 16 16 ≠ 0#16))

/-- R251, R261, R280: when no cycle is due and the host's next input is a CONSTRUCT, the step gives the constructed PSC, which reports
0, or ends with the reason of the refusal, whose code is 2 or 8. That the later inputs wait for the new PSC (log 10) and that a
refusal is a fault of the step (log 9) are the model's form. -/
def Obligations.StepTakesConstruct : Prop :=
  (∀ (s : State) (a : ConstructArgs) (later : List HostInput), s.runLeft = 0 → s.inbox = .construct a :: later →
    (∀ u, construct a = .ok u → step s = .next { u with inbox := later } ∧ u.constructResult = 0#4) ∧
    (∀ f, construct a = .error f → step s = .fault f)) ∧
  Fault.code .malformedEncoding = 2#4 ∧ Fault.code .badConfiguration = 8#4

/-! ### Host commands -/

/-- R255. -/
def Obligations.NopDoesNothing : Prop := ∀ s : State, exec .nop s = .next s

/-- R253: outside the FAULTED state RUN(n) makes n cycles due, and with a program of kinds (the clause `program` of the invariant) the
steps that follow perform them, whatever inputs wait: after m of them without a fault, m cycles have run and n - m are due, and
after at most n the RUN is over, at n cycles or at the fault that stops it. That the cycles are steps of their own is the model's
form (log 6). -/
def Obligations.RunPerformsItsCycles : Prop :=
  ∀ (n : BitVec 24) (s : State), s.fault = 0#4 →
    exec (.run n) s = .next { s with runLeft := n.toNat } ∧
    (programWf s.prog = true →
      (∀ m, m ≤ n.toNat → s.SafeFor m →
        Host.Core.run Sys2Proof.core m { s with runLeft := n.toNat } = .next { cycles m s with runLeft := n.toNat - m }) ∧
      (∃ m, m ≤ n.toNat ∧
        Host.Core.run Sys2Proof.core m { s with runLeft := n.toNat } = .next { cycles n.toNat s with runLeft := 0 }))

/-- R252, R28, R284, R285: SETUP_FWD outside the FAULTED state, in the order of its checks. -/
def Obligations.SetupFwdEnablesOneEdge : Prop :=
  ∀ s : State, s.fault = 0#4 →
    (s.started = true → ∀ source target, exec (.setupFwd source target) s = .next { s with fault := 4#4 }) ∧
    (s.started = false →
      exec (.setupFwd .execute .execute) s = .next { s with fwdCfg := s.fwdCfg ||| 0x0020#16 } ∧
      exec (.setupFwd .memory .execute) s = .next { s with fwdCfg := s.fwdCfg ||| 0x0200#16 } ∧
      ∀ source target, (source, target) ≠ (Stage.execute, Stage.execute) → (source, target) ≠ (Stage.memory, Stage.execute) →
        exec (.setupFwd source target) s = .next { s with fault := 5#4 })

/-- R254, R155, R178: FLUSH_ALL outside the FAULTED state empties every slot and the queue, clears every busy count, changes nothing
else, and leaves the PSC done. -/
def Obligations.FlushAllClearsThePipeline : Prop :=
  ∀ s : State, s.fault = 0#4 → ∃ t, exec .flushAll s = .next t ∧ t.isDone = true ∧
    t = { s with
      slotD := List.replicate s.slotD.length none, slotE := List.replicate s.slotE.length none
      slotM := List.replicate s.slotM.length none, slotW := List.replicate s.slotW.length none
      queue := [], busy := Vector.replicate 32 0 }

/-- R256, R36: READ answers the status register at its index, in every state, and changes nothing else. Counts beyond 32 bits are
read modulo 2^32, the model's choice (log 13); the list of responses is the model's form (log 6). -/
def Obligations.ReadAnswersTheStatusRegister : Prop :=
  ∀ (s : State) (index : BitVec 8), ∃ w : Word, exec (.read index) s = .next { s with responses := s.responses ++ [w] } ∧
    (index = 0x00#8 → (w.getLsbD 0 = true ↔ ∀ e ∈ s.allSlots, e = none) ∧ w.getLsbD 1 = s.started ∧
      (w.getLsbD 2 = true ↔ s.fault ≠ 0#4) ∧ w.getLsbD 3 = false ∧ w.extractLsb' 4 4 = s.fault ∧ w.extractLsb' 8 24 = 0#24) ∧
    (index = 0x01#8 → w = s.pc) ∧
    (index = 0x02#8 → w = s.committed.extractLsb' 0 32) ∧ (index = 0x03#8 → w = s.committed.extractLsb' 32 32) ∧
    (index = 0x04#8 → w = s.stalls.extractLsb' 0 32) ∧ (index = 0x05#8 → w = s.stalls.extractLsb' 32 32) ∧
    (index = 0x06#8 → w = s.hazardBubbles.extractLsb' 0 32) ∧ (index = 0x07#8 → w = s.hazardBubbles.extractLsb' 32 32) ∧
    (index = 0x08#8 → w = s.fwdCfg.zeroExtend 32) ∧
    (index = 0x09#8 → w.extractLsb' 0 8 = BitVec.ofNat 8 s.lat.d ∧ w.extractLsb' 8 8 = BitVec.ofNat 8 s.lat.e ∧
      w.extractLsb' 16 8 = BitVec.ofNat 8 s.lat.m ∧ w.extractLsb' 24 8 = BitVec.ofNat 8 s.lat.w) ∧
    (index = 0x0A#8 → w = effFreq s.freq) ∧
    (index = 0x0B#8 → w = BitVec.ofNat 32 s.queue.length) ∧ (index = 0x0C#8 → w = BitVec.ofNat 32 s.prog.length) ∧
    (∀ r : RegId, index.toNat = 0x20 + r.toNat → w = BitVec.ofNat 32 (s.busyOf r)) ∧
    ((0x0D ≤ index.toNat ∧ index.toNat < 0x20) ∨ 0x40 ≤ index.toNat → w = 0#32)

/-- R258: EFF_FREQ is the least of the four frequencies, and no step but a CONSTRUCT changes it. -/
def Obligations.EffFreqIsTheMinimum : Prop :=
  ∀ s : State,
    effFreq s.freq ∈ [s.freq.d, s.freq.e, s.freq.m, s.freq.w] ∧
    (∀ f ∈ [s.freq.d, s.freq.e, s.freq.m, s.freq.w], (effFreq s.freq).toNat ≤ f.toNat) ∧
    s.statusAt 0x0A#8 = effFreq s.freq ∧
    ∀ t, (s.runLeft = 0 → ∀ a later, s.inbox ≠ .construct a :: later) → step s = .next t → effFreq t.freq = effFreq s.freq

/-- R259: the stall ratio is stalls / (committed + stalls), in [0, 1], and 0 when no cycle has run. -/
def Obligations.StallRatioIsExact : Prop :=
  ∀ s : State,
    (s.committed.toNat + s.stalls.toNat = 0 → s.stallRatio = 0) ∧
    s.stallRatio * ((s.committed.toNat + s.stalls.toNat : Nat) : Rat) = (s.stalls.toNat : Rat) ∧
    0 ≤ s.stallRatio ∧ s.stallRatio ≤ 1

/-- R262, R289: in the FAULTED state only READ does anything; every other instruction, a program instruction's cycle included,
leaves the whole state as it is. That READ's answer goes to the list of responses is the model's form (log 6). -/
def Obligations.FaultedPscOnlyAnswersReads : Prop :=
  ∀ (i : Instr) (s : State), s.fault ≠ 0#4 →
    ((∀ index, i ≠ .read index) → exec i s = .next s) ∧
    (∀ index, i = .read index → exec i s = .next { s with responses := s.responses ++ [s.statusAt index] })

/-- R289, R292: once set, the fault code and the state it was raised in stay until a new CONSTRUCT. The
fields that may change are the model's own (log 6). -/
def Obligations.FaultIsSticky : Prop :=
  ∀ s t : State, s.fault ≠ 0#4 → (s.runLeft = 0 → ∀ a later, s.inbox ≠ .construct a :: later) → step s = .next t →
    t = { s with runLeft := t.runLeft, inbox := t.inbox, responses := t.responses }

/-- R7: CONSTRUCT fixes the latencies, the frequencies and the program, and no later step changes them; SETUP_FWD alone changes the
forwarding configuration, and nothing changes it once a cycle has completed. No step clears a bit of it (R28). -/
def Obligations.ConfigurationIsFixed : Prop :=
  (∀ (a : ConstructArgs) (s : State), construct a = .ok s →
    s.lat = a.lat ∧ s.freq = a.freq ∧ decodeProgram a.program = .ok s.prog) ∧
  (∀ (i : Instr) (s t : State), exec i s = .next t →
    t.lat = s.lat ∧ t.freq = s.freq ∧ t.prog = s.prog ∧ t.fwdCfg &&& s.fwdCfg = s.fwdCfg ∧
    ((s.started = true ∨ ∀ source target, i ≠ .setupFwd source target) → t.fwdCfg = s.fwdCfg)) ∧
  (∀ s t : State, (s.runLeft = 0 → ∀ a later, s.inbox ≠ .construct a :: later) → step s = .next t →
    t.lat = s.lat ∧ t.freq = s.freq ∧ t.prog = s.prog ∧ t.fwdCfg &&& s.fwdCfg = s.fwdCfg ∧
    (s.started = true → t.fwdCfg = s.fwdCfg ∧ t.started = true))

/-! ### Program instructions: alone in the pipeline, from the cycle that fetches them to their retirement -/

/-- R123, R124, R125, R180, R181: add, sub and andi, fetched into a drained pipeline of any latencies: after P more cycles in which
nothing is fetched, the destination holds the result, the record is committed and traced, P cycles were stalls, `pc` is 4 further,
`started` is 1, and everything else (memory, busy counts, slots, queue, the other registers) is as before.
That `exec` of a program instruction is the cycle that fetches it is the model's form (log 7). -/
def Obligations.AluInstructionsRunAlone : Prop :=
  ∀ s : State, s.Drained → ∀ (rd rs rt : RegId) (imm16 : BitVec 16),
    let retired (r : RegId) (v : Word) (name : String) : State :=
      { s with regs := s.regs.set r.toNat v r.isLt, pc := s.pc + 4#32, committed := s.committed + 1#64
               stalls := s.stalls + BitVec.ofNat 64 s.lat.total, started := true
               trace := s.trace ++ [⟨name, s.pc, some v.toInt⟩] }
    (∃ t, exec (.add rd rs rt) s = .next t ∧ drainCycles s.lat.total t = retired rd (s.x rs + s.x rt) "add") ∧
    (∃ t, exec (.sub rd rs rt) s = .next t ∧ drainCycles s.lat.total t = retired rd (s.x rs - s.x rt) "sub") ∧
    (∃ t, exec (.andi rt rs imm16) s = .next t ∧
      drainCycles s.lat.total t = retired rt (s.x rs &&& imm16.zeroExtend 32) "andi")

/-- R120, R62: an aligned lw alone: the destination holds the Word at base plus signed offset.
That `exec` of a program instruction is the cycle that fetches it is the model's form (log 7). -/
def Obligations.LoadRunsAlone : Prop :=
  ∀ s : State, s.Drained → ∀ (rt rs : RegId) (off16 : BitVec 16),
    (s.x rs + off16.signExtend 32).extractLsb' 0 2 = 0#2 →
    ∃ t, exec (.lw rt rs off16) s = .next t ∧ drainCycles s.lat.total t =
      { s with regs := s.regs.set rt.toNat (s.memRead (s.x rs + off16.signExtend 32)) rt.isLt
               pc := s.pc + 4#32, committed := s.committed + 1#64
               stalls := s.stalls + BitVec.ofNat 64 s.lat.total, started := true
               trace := s.trace ++ [⟨"lw", s.pc, some (s.memRead (s.x rs + off16.signExtend 32)).toInt⟩] }

/-- R121, R62: an aligned sw alone: the Word at base plus signed offset is the data register, every other Word reads as before, and
no register changes. That `exec` of a program instruction is the cycle that fetches it is the model's form (log 7). -/
def Obligations.StoreRunsAlone : Prop :=
  ∀ s : State, s.Drained → Memory.wf s.dmem = true → ∀ (rt rs : RegId) (off16 : BitVec 16),
    (s.x rs + off16.signExtend 32).extractLsb' 0 2 = 0#2 →
    ∃ t, exec (.sw rt rs off16) s = .next t ∧
      (drainCycles s.lat.total t).memRead (s.x rs + off16.signExtend 32) = s.x rt ∧
      (∀ b, b ≠ s.x rs + off16.signExtend 32 → (drainCycles s.lat.total t).memRead b = s.memRead b) ∧
      drainCycles s.lat.total t =
        { s with dmem := (drainCycles s.lat.total t).dmem, pc := s.pc + 4#32, committed := s.committed + 1#64
                 stalls := s.stalls + BitVec.ofNat 64 s.lat.total, started := true
                 trace := s.trace ++ [⟨"sw", s.pc, none⟩] }

/-- R122, R231, R234, R236: j alone, at any latency of E: `pc` is the target, and the jump itself is committed.
That `exec` of a program instruction is the cycle that fetches it is the model's form (log 7). -/
def Obligations.JumpRunsAlone : Prop :=
  ∀ s : State, s.Drained → ∀ index26 : BitVec 26,
    ∃ t, exec (.j index26) s = .next t ∧ drainCycles s.lat.total t =
      { s with pc := (s.pc + 4#32).extractLsb' 28 4 ++ index26 ++ 0#2, committed := s.committed + 1#64
               stalls := s.stalls + BitVec.ofNat 64 s.lat.total, started := true
               trace := s.trace ++ [⟨"j", s.pc, none⟩] }

/-- R64, R287, R289: a misaligned lw or sw alone stops the PSC in its first M cycle with MisalignedData; the cycles before it have
touched no register and no memory, and nothing changes after it.
That `exec` of a program instruction is the cycle that fetches it is the model's form (log 7). -/
def Obligations.MisalignedAccessAloneFaults : Prop :=
  ∀ s : State, s.Drained → ∀ (rt rs : RegId) (off16 : BitVec 16),
    (s.x rs + off16.signExtend 32).extractLsb' 0 2 ≠ 0#2 →
    ∀ i ∈ [Instr.lw rt rs off16, Instr.sw rt rs off16],
      ∃ t, exec i s = .next t ∧
        (drainCycles (s.lat.d + s.lat.e) t).fault = 0#4 ∧
        (drainCycles (s.lat.d + s.lat.e) t).regs = s.regs ∧ (drainCycles (s.lat.d + s.lat.e) t).dmem = s.dmem ∧
        (drainCycles (s.lat.d + s.lat.e) t).committed = s.committed ∧
        ∀ n, drainCycles (s.lat.d + s.lat.e + 1 + n) t = { drainCycles (s.lat.d + s.lat.e) t with fault := 7#4 }

/-- R21, R34, R71, R114, R239, R263: in every state, a cycle, that a program instruction is fetched in or any other, changes no
configuration and none of the host's inputs and outputs; a register changes only when a record in writeback has it as a
destination; a memory Word
changes only when an sw in memory has it as its address. That `exec` of a program instruction is the cycle that fetches it (first
clause) is the model's form (log 7), and so are the fields of the host's inputs and outputs (log 6, log 10). -/
def Obligations.ProgramInstructionFrame : Prop :=
  (∀ (i : Instr) (s : State), i.isProgram = true → exec i s = .next (cycleWith (some i) s)) ∧
  ∀ (found : Option Instr) (s : State),
    let t := cycleWith found s
    t.lat = s.lat ∧ t.freq = s.freq ∧ t.prog = s.prog ∧ t.fwdCfg = s.fwdCfg ∧ t.runLeft = s.runLeft ∧ t.inbox = s.inbox ∧
    t.responses = s.responses ∧ t.constructResult = s.constructResult ∧
    (∀ r : RegId, (∀ I, some I ∈ s.slotW → r ∉ dsts I.instr) → t.x r = s.x r) ∧
    (Memory.wf s.dmem = true → ∀ a : Word,
      (∀ I rt rs off16, some I ∈ s.slotM → I.instr = .sw rt rs off16 → I.ea ≠ a) → t.memRead a = s.memRead a)

/-! ### The cycle -/

/-- R170, R289: a cycle does nothing in the FAULTED state; one that raises a fault changes the code and nothing else. -/
def Obligations.FaultingCycleIsRolledBack : Prop :=
  ∀ (found : Option Instr) (s : State),
    (s.fault ≠ 0#4 → cycleWith found s = s) ∧
    (s.fault = 0#4 → (cycleWith found s).fault ≠ 0#4 →
      cycleWith found s = { s with fault := (cycleWith found s).fault })

/-- R118, R212, R282, R283, R287: MisalignedData is the only fault a cycle can raise, and it is raised exactly when an lw or sw in
memory has an address that is not 4-aligned; DoubleLoad and UnconfiguredHazard never are. -/
def Obligations.OnlyMisalignedDataStopsACycle : Prop :=
  ∀ (found : Option Instr) (s : State), s.Sized → s.fault = 0#4 →
    ((cycleWith found s).fault = 0#4 ∨ (cycleWith found s).fault = 7#4) ∧
    ((cycleWith found s).fault = 7#4 ↔
      ∃ I rt rs off16, some I ∈ s.slotM ∧ (I.instr = .lw rt rs off16 ∨ I.instr = .sw rt rs off16) ∧
        I.ea.extractLsb' 0 2 ≠ 0#2)

/-- R176. -/
def Obligations.CompletedCycleSetsStarted : Prop :=
  ∀ (found : Option Instr) (s : State), s.fault = 0#4 → (cycleWith found s).fault = 0#4 →
    (cycleWith found s).started = true

/-- R173, R180, R29: a completed cycle retires the record in the exit slot of writeback, counting and tracing it with the value its
first destination then holds, or counts one stall; never both. -/
def Obligations.CompletedCycleRetiresOrStalls : Prop :=
  ∀ (found : Option Instr) (s : State), s.fault = 0#4 → (cycleWith found s).fault = 0#4 →
    let t := cycleWith found s
    (∀ I k, s.slotW.getLast? = some (some I) → I.instr.kind? = some k →
      t.committed = s.committed + 1#64 ∧ t.stalls = s.stalls ∧
      t.trace = s.trace ++ [⟨k.label, I.addr, (dsts I.instr).head?.map fun r => (t.x r).toInt⟩]) ∧
    ((∀ I, s.slotW.getLast? ≠ some (some I)) →
      t.committed = s.committed ∧ t.stalls = s.stalls + 1#64 ∧ t.trace = s.trace)

/-- R182.1, R253: over n cycles that meet no fault, committed + stalls grows by n. -/
def Obligations.CommittedPlusStallsCountsCycles : Prop :=
  ∀ (n : Nat) (s : State), s.fault = 0#4 → s.SafeFor n →
    (cycles n s).committed + (cycles n s).stalls = s.committed + s.stalls + BitVec.ofNat 64 n

/-- R26, R171, R183, R231: in a completed cycle `pc` is the target of the oldest jump in execute, or 4 further when an instruction was
fetched, or unchanged. -/
def Obligations.PcFollowsFetchAndRedirection : Prop :=
  ∀ (found : Option Instr) (s : State), s.fault = 0#4 → (cycleWith found s).fault = 0#4 →
    ((∀ I index26, some I ∈ s.slotE → I.instr ≠ .j index26) →
      (cycleWith found s).pc = if s.queue = [] ∧ found ≠ none then s.pc + 4#32 else s.pc) ∧
    (∀ younger older R index26, s.slotE = younger ++ some R :: older → R.instr = .j index26 →
      (∀ I index, some I ∈ older → I.instr ≠ .j index) →
      (cycleWith found s).pc = (R.addr + 4#32).extractLsb' 28 4 ++ index26 ++ 0#2)

/-- R158, R111, R113, R114, R239: in a completed cycle without a redirection, every record moves on by exactly one position. A record
in decode then keeps its internal result too, and so does, in every completed cycle, a record in writeback and one in memory that is
no lw. -/
def Obligations.RecordsAdvanceOnePosition : Prop :=
  ∀ (found : Option Instr) (s : State), s.Sized → s.fault = 0#4 → (cycleWith found s).fault = 0#4 →
    ((∀ I index26, some I ∈ s.slotE → I.instr ≠ .j index26) →
      (∀ q, q + 1 < s.lat.total →
        ((cycleWith found s).recordAt (q + 1)).map InFlight.identity = (s.recordAt q).map InFlight.identity) ∧
      (∀ q, q < s.lat.d → (cycleWith found s).recordAt (q + 1) = s.recordAt q)) ∧
    (∀ q I, s.recordAt q = some I → s.lat.d + s.lat.e ≤ q → q < s.lat.d + s.lat.e + s.lat.m →
      (∀ rt rs off16, I.instr ≠ .lw rt rs off16) → (cycleWith found s).recordAt (q + 1) = some I) ∧
    (∀ q, s.lat.d + s.lat.e + s.lat.m ≤ q → q + 1 < s.lat.total → (cycleWith found s).recordAt (q + 1) = s.recordAt q)

/-- R231, R232, R234, R237, R239: a redirection kills exactly the younger records: those at lower positions, in the queue and just
fetched. The jump and everything older move on by one position. -/
def Obligations.RedirectionKillsExactlyTheYounger : Prop :=
  ∀ (found : Option Instr) (s : State) (younger older : List (Option InFlight)) (R : InFlight) (index26 : BitVec 26),
    s.Sized → s.fault = 0#4 → (cycleWith found s).fault = 0#4 →
    s.slotE = younger ++ some R :: older → R.instr = .j index26 → (∀ I index, some I ∈ older → I.instr ≠ .j index) →
    (cycleWith found s).queue = [] ∧
    (∀ q, q ≤ s.lat.d + younger.length → (cycleWith found s).recordAt q = none) ∧
    (∀ q, s.lat.d + younger.length ≤ q → q + 1 < s.lat.total →
      ((cycleWith found s).recordAt (q + 1)).map InFlight.identity = (s.recordAt q).map InFlight.identity)

/-- R210, R174, R175, R211: the stall-injection state machine. In IDLE a fetched instruction enters decode at once or is held behind
k - 1 bubbles, k at most P - 1 and, when the busy counts are exact, the least count that releases it (R200 to R208);
in HOLD(j, I) the bubbles go in one a cycle and then I; a redirection empties the queue. -/
def Obligations.IssueQueueStateMachine : Prop :=
  ∀ (found : Option Instr) (s : State), s.Sized → s.fault = 0#4 → (cycleWith found s).fault = 0#4 →
    let t := cycleWith found s
    ((∀ I index26, some I ∈ s.slotE → I.instr ≠ .j index26) →
      (∀ i, s.queue = [] → found = some i → ∃ k, k < s.lat.total ∧
        t.hazardBubbles = s.hazardBubbles + BitVec.ofNat 64 k ∧
        (s.BusyExact → t.Releases i k ∧ ∀ k' < k, ¬ t.Releases i k') ∧
        (k = 0 → t.queue = [] ∧ t.recordAt 0 = some (InFlight.fresh i s.pc)) ∧
        (0 < k → t.queue = holdQueue (k - 1) (InFlight.fresh i s.pc) ∧ t.recordAt 0 = none)) ∧
      (s.queue = [] → found = none → t.queue = [] ∧ t.recordAt 0 = none ∧ t.hazardBubbles = s.hazardBubbles) ∧
      (∀ j I, s.queue = holdQueue (j + 1) I →
        t.queue = holdQueue j I ∧ t.recordAt 0 = none ∧ t.hazardBubbles = s.hazardBubbles) ∧
      (∀ I, s.queue = holdQueue 0 I → t.queue = [] ∧ t.recordAt 0 = some I ∧ t.hazardBubbles = s.hazardBubbles)) ∧
    ((∃ I index26, some I ∈ s.slotE ∧ I.instr = .j index26) →
      t.queue = [] ∧ t.recordAt 0 = none ∧ t.hazardBubbles = s.hazardBubbles)

/-- R112, R172, R23, R232, R234: in a completed cycle a record in execute that no older jump there kills computes from the registers
as writeback has left them in this same cycle, and moves on with that internal result; a jump moves on as it is. -/
def Obligations.ExecuteReadsRegistersAfterWriteback : Prop :=
  ∀ (found : Option Instr) (s : State), s.Sized → s.fault = 0#4 → (cycleWith found s).fault = 0#4 →
    let t := cycleWith found s
    ∀ (n : Nat) (I : InFlight), s.slotE[n]? = some (some I) →
      (∀ (m : Nat) (K : InFlight) (index : BitVec 26), n < m → s.slotE[m]? = some (some K) → K.instr ≠ .j index) →
      (∀ rd rs rt, I.instr = .add rd rs rt → t.recordAt (s.lat.d + n + 1) = some { I with res := t.x rs + t.x rt }) ∧
      (∀ rd rs rt, I.instr = .sub rd rs rt → t.recordAt (s.lat.d + n + 1) = some { I with res := t.x rs - t.x rt }) ∧
      (∀ rt rs imm16, I.instr = .andi rt rs imm16 →
        t.recordAt (s.lat.d + n + 1) = some { I with res := t.x rs &&& imm16.zeroExtend 32 }) ∧
      (∀ rt rs off16, I.instr = .lw rt rs off16 →
        t.recordAt (s.lat.d + n + 1) = some { I with ea := t.x rs + off16.signExtend 32 }) ∧
      (∀ rt rs off16, I.instr = .sw rt rs off16 →
        t.recordAt (s.lat.d + n + 1) = some { I with ea := t.x rs + off16.signExtend 32, sdata := t.x rt }) ∧
      (∀ index26, I.instr = .j index26 → t.recordAt (s.lat.d + n + 1) = some I)

/-- R68, R113, R152: in a completed cycle a load in memory reads the Word as it stood before the cycle when no older store is in
memory, whatever younger stores write in the same cycle. -/
def Obligations.LoadReadsBeforeYoungerStores : Prop :=
  ∀ (found : Option Instr) (s : State), s.Sized → s.fault = 0#4 → (cycleWith found s).fault = 0#4 →
    ∀ (younger older : List (Option InFlight)) (I : InFlight) (rt rs : RegId) (off16 : BitVec 16),
      s.slotM = younger ++ some I :: older → I.instr = .lw rt rs off16 →
      (∀ K rt' rs' off', some K ∈ older → K.instr ≠ .sw rt' rs' off') →
      (cycleWith found s).recordAt (s.lat.d + s.lat.e + younger.length + 1) = some { I with res := s.memRead I.ea }

/-- R68 item 1: in a completed cycle a load in memory reads the data of the youngest older store in memory to its address, and the
Word as it stood before the cycle when no older store there is to its address. -/
def Obligations.LoadReadsYoungestOlderStore : Prop :=
  ∀ (found : Option Instr) (s : State), s.Sized → Memory.wf s.dmem = true → s.fault = 0#4 → (cycleWith found s).fault = 0#4 →
    ∀ (younger older : List (Option InFlight)) (I : InFlight) (rt rs : RegId) (off16 : BitVec 16),
      s.slotM = younger ++ some I :: older → I.instr = .lw rt rs off16 →
      ((∀ K rt' rs' off', some K ∈ older → K.instr = .sw rt' rs' off' → K.ea ≠ I.ea) →
        (cycleWith found s).recordAt (s.lat.d + s.lat.e + younger.length + 1) = some { I with res := s.memRead I.ea }) ∧
      (∀ (between oldest : List (Option InFlight)) (W : InFlight) (rt' rs' : RegId) (off' : BitVec 16),
        older = between ++ some W :: oldest → W.instr = .sw rt' rs' off' → W.ea = I.ea →
        (∀ K rt'' rs'' off'', some K ∈ between → K.instr = .sw rt'' rs'' off'' → K.ea ≠ I.ea) →
        (cycleWith found s).recordAt (s.lat.d + s.lat.e + younger.length + 1) = some { I with res := W.sdata })

/-- R68, R114, R121, R215: in a completed cycle the youngest writer in writeback determines a register, and the youngest store in memory
determines a Word. -/
def Obligations.YoungestWriterWins : Prop :=
  ∀ (found : Option Instr) (s : State), s.fault = 0#4 → (cycleWith found s).fault = 0#4 →
    (∀ (younger older : List (Option InFlight)) (I : InFlight) (r : RegId), s.slotW = younger ++ some I :: older →
      r ∈ dsts I.instr → (∀ K, some K ∈ younger → r ∉ dsts K.instr) → (cycleWith found s).x r = I.res) ∧
    (Memory.wf s.dmem = true →
      ∀ (younger older : List (Option InFlight)) (I : InFlight) (rt rs : RegId) (off16 : BitVec 16),
        s.slotM = younger ++ some I :: older → I.instr = .sw rt rs off16 →
        (∀ K rt' rs' off', some K ∈ younger → K.instr = .sw rt' rs' off' → K.ea ≠ I.ea) →
        (cycleWith found s).memRead I.ea = I.sdata)

/-- R178: after a cycle that completes without a fault, isDone means an empty queue and no instruction at `pc`. -/
def Obligations.DoneAfterACycleMeansDrained : Prop :=
  ∀ s : State, s.Inv → s.fault = 0#4 → (cycle s).fault = 0#4 → (cycle s).isDone = true →
    (cycle s).queue = [] ∧ imem (cycle s).prog (cycle s).pc = none

/-- R179, R183: a cycle of a drained pipeline with nothing to fetch counts one stall and, once started, changes nothing else. -/
def Obligations.DrainedCycleOnlyCountsAStall : Prop :=
  ∀ s : State, s.Drained → s.started = true → imem s.prog s.pc = none → cycle s = { s with stalls := s.stalls + 1#64 }

/-- R313: a run of at most P cycles from construction that meets no fault commits nothing, and every cycle of it is a stall. -/
def Obligations.FirstCyclesCommitNothing : Prop :=
  ∀ (a : ConstructArgs) (s : State) (n : Nat), construct a = .ok s → n ≤ s.lat.total → s.SafeFor n →
    (cycles n s).committed = 0#64 ∧ (cycles n s).stalls = BitVec.ofNat 64 n ∧ (cycles n s).trace = []

/-! ### Hazards and forwarding -/

/-- R207, R208, R212: the stall count exists, is at most P - 1, satisfies every producer, and no smaller one does; a producer is never
at position 0 (R201). -/
def Obligations.StallCountIsLeastAndBounded : Prop :=
  ∀ (t : Transit) (s : State) (J : Instr), 1 ≤ s.lat.total → (∀ p ∈ producers t s J, 1 ≤ p.2) →
    ∃ k, stallCount t s J = .ok k ∧ k < s.lat.total ∧
      (∀ p ∈ producers t s J, viable s.lat s.fwdCfg (rraOf p.1.instr) (p.2 + k) = true) ∧
      ∀ k' < k, ∃ p ∈ producers t s J, viable s.lat s.fwdCfg (rraOf p.1.instr) (p.2 + k') = false

/-- R203 to R206, R213: the bubbles for a single producer at position p: the matching enabled edge's exact distance when the producer is
not past it, else the wait for its retirement. -/
def Obligations.SingleProducerClosedForm : Prop :=
  ∀ (lat : Latencies) (cfg : BitVec 16) (p : Nat), lat.wf = true → 1 ≤ p → p < lat.total →
    searchStall lat cfg [(some .ex, p)] =
      .ok (if cfg.getLsbD 5 = true ∧ p ≤ lat.e then lat.e - p else lat.total - p) ∧
    searchStall lat cfg [(some .mem, p)] =
      .ok (if cfg.getLsbD 9 = true ∧ p ≤ lat.e + lat.m then lat.e + lat.m - p else lat.total - p) ∧
    searchStall lat cfg [(some .wb, p)] = .ok (lat.total - p)

/-- R200, R209: an instruction none of whose sources an in-flight record with a raised busy count will write stalls zero cycles. -/
def Obligations.NoHazardNoStall : Prop :=
  ∀ (t : Transit) (s : State) (J : Instr),
    (∀ p ∈ inFlightAt t s, ∀ r ∈ srcs J, r ∈ dsts p.1.instr → s.busyOf r = 0) → stallCount t s J = .ok 0

/-- R27, R214: forwarding is timing only. With any other forwarding configuration, the same cycle leaves the same registers, memory,
`pc`, busy counts, counters, trace and `started`, meets the same fault, and leaves the same records, internal results included, in
every slot but the entry of decode, which is where the stall count shows. -/
def Obligations.ForwardingIsTimingOnly : Prop :=
  ∀ (found : Option Instr) (s : State) (cfg : BitVec 16), s.Sized →
    let t := cycleWith found s
    let u := cycleWith found { s with fwdCfg := cfg }
    u.regs = t.regs ∧ u.dmem = t.dmem ∧ u.pc = t.pc ∧ u.busy = t.busy ∧ u.committed = t.committed ∧ u.stalls = t.stalls ∧
      u.trace = t.trace ∧ u.fault = t.fault ∧ u.started = t.started ∧ u.slotE = t.slotE ∧ u.slotM = t.slotM ∧
      u.slotW = t.slotW ∧ u.slotD.tail = t.slotD.tail

/-- R157: no timing rule depends on the stage frequencies. -/
def Obligations.FrequenciesDoNotAffectACycle : Prop :=
  ∀ (found : Option Instr) (s : State) (freq : Frequencies),
    cycleWith found { s with freq := freq } = { cycleWith found s with freq := freq }

/-! ### The invariant -/

/-- R22, R24, R25, R28, R64, R182: the invariant holds at reset. Its clauses `memory` (log 1) and `constructed` (log 10) are about the
model's own form, and State.reset's construction arguments are the model's choice (log 2 to 4). -/
def Obligations.InvariantHoldsAtReset : Prop := State.reset.Inv

/-- R22, R24, R25, R28, R64, R182, R213: every step keeps the invariant, from every state that has it. Its clauses
`memory` (log 1) and `constructed` (log 10) are about the model's own form. -/
def Obligations.EveryStepKeepsTheInvariant : Prop :=
  ∀ s t : State, s.Inv → step s = .next t → t.Inv
end

