-- ==== Sys2Proof/Laws/State.lean ====
section
/-! SUPPORT. The small lemmas of the state's updates: what each update leaves as it was, one lemma per field, and what it writes. -/

namespace Sys2Proof.Machine

variable (s : State)

/-! ### One register -/

@[simp] theorem setX_lat (r : RegId) (v : Word) : (s.setX r v).lat = s.lat := rfl
@[simp] theorem setX_freq (r : RegId) (v : Word) : (s.setX r v).freq = s.freq := rfl
@[simp] theorem setX_prog (r : RegId) (v : Word) : (s.setX r v).prog = s.prog := rfl
@[simp] theorem setX_slotD (r : RegId) (v : Word) : (s.setX r v).slotD = s.slotD := rfl
@[simp] theorem setX_slotE (r : RegId) (v : Word) : (s.setX r v).slotE = s.slotE := rfl
@[simp] theorem setX_slotM (r : RegId) (v : Word) : (s.setX r v).slotM = s.slotM := rfl
@[simp] theorem setX_slotW (r : RegId) (v : Word) : (s.setX r v).slotW = s.slotW := rfl
@[simp] theorem setX_queue (r : RegId) (v : Word) : (s.setX r v).queue = s.queue := rfl
@[simp] theorem setX_busy (r : RegId) (v : Word) : (s.setX r v).busy = s.busy := rfl
@[simp] theorem setX_pc (r : RegId) (v : Word) : (s.setX r v).pc = s.pc := rfl
@[simp] theorem setX_fwdCfg (r : RegId) (v : Word) : (s.setX r v).fwdCfg = s.fwdCfg := rfl
@[simp] theorem setX_committed (r : RegId) (v : Word) : (s.setX r v).committed = s.committed := rfl
@[simp] theorem setX_stalls (r : RegId) (v : Word) : (s.setX r v).stalls = s.stalls := rfl
@[simp] theorem setX_hazardBubbles (r : RegId) (v : Word) : (s.setX r v).hazardBubbles = s.hazardBubbles := rfl
@[simp] theorem setX_started (r : RegId) (v : Word) : (s.setX r v).started = s.started := rfl
@[simp] theorem setX_fault (r : RegId) (v : Word) : (s.setX r v).fault = s.fault := rfl
@[simp] theorem setX_trace (r : RegId) (v : Word) : (s.setX r v).trace = s.trace := rfl
@[simp] theorem setX_dmem (r : RegId) (v : Word) : (s.setX r v).dmem = s.dmem := rfl
@[simp] theorem setX_runLeft (r : RegId) (v : Word) : (s.setX r v).runLeft = s.runLeft := rfl
@[simp] theorem setX_inbox (r : RegId) (v : Word) : (s.setX r v).inbox = s.inbox := rfl
@[simp] theorem setX_responses (r : RegId) (v : Word) : (s.setX r v).responses = s.responses := rfl
@[simp] theorem setX_constructResult (r : RegId) (v : Word) : (s.setX r v).constructResult = s.constructResult := rfl

/-! ### One busy count -/

@[simp] theorem setBusy_lat (r : RegId) (n : Nat) : (s.setBusy r n).lat = s.lat := rfl
@[simp] theorem setBusy_freq (r : RegId) (n : Nat) : (s.setBusy r n).freq = s.freq := rfl
@[simp] theorem setBusy_prog (r : RegId) (n : Nat) : (s.setBusy r n).prog = s.prog := rfl
@[simp] theorem setBusy_slotD (r : RegId) (n : Nat) : (s.setBusy r n).slotD = s.slotD := rfl
@[simp] theorem setBusy_slotE (r : RegId) (n : Nat) : (s.setBusy r n).slotE = s.slotE := rfl
@[simp] theorem setBusy_slotM (r : RegId) (n : Nat) : (s.setBusy r n).slotM = s.slotM := rfl
@[simp] theorem setBusy_slotW (r : RegId) (n : Nat) : (s.setBusy r n).slotW = s.slotW := rfl
@[simp] theorem setBusy_queue (r : RegId) (n : Nat) : (s.setBusy r n).queue = s.queue := rfl
@[simp] theorem setBusy_pc (r : RegId) (n : Nat) : (s.setBusy r n).pc = s.pc := rfl
@[simp] theorem setBusy_fwdCfg (r : RegId) (n : Nat) : (s.setBusy r n).fwdCfg = s.fwdCfg := rfl
@[simp] theorem setBusy_committed (r : RegId) (n : Nat) : (s.setBusy r n).committed = s.committed := rfl
@[simp] theorem setBusy_stalls (r : RegId) (n : Nat) : (s.setBusy r n).stalls = s.stalls := rfl
@[simp] theorem setBusy_hazardBubbles (r : RegId) (n : Nat) : (s.setBusy r n).hazardBubbles = s.hazardBubbles := rfl
@[simp] theorem setBusy_started (r : RegId) (n : Nat) : (s.setBusy r n).started = s.started := rfl
@[simp] theorem setBusy_fault (r : RegId) (n : Nat) : (s.setBusy r n).fault = s.fault := rfl
@[simp] theorem setBusy_trace (r : RegId) (n : Nat) : (s.setBusy r n).trace = s.trace := rfl
@[simp] theorem setBusy_regs (r : RegId) (n : Nat) : (s.setBusy r n).regs = s.regs := rfl
@[simp] theorem setBusy_dmem (r : RegId) (n : Nat) : (s.setBusy r n).dmem = s.dmem := rfl
@[simp] theorem setBusy_runLeft (r : RegId) (n : Nat) : (s.setBusy r n).runLeft = s.runLeft := rfl
@[simp] theorem setBusy_inbox (r : RegId) (n : Nat) : (s.setBusy r n).inbox = s.inbox := rfl
@[simp] theorem setBusy_responses (r : RegId) (n : Nat) : (s.setBusy r n).responses = s.responses := rfl
@[simp] theorem setBusy_constructResult (r : RegId) (n : Nat) : (s.setBusy r n).constructResult = s.constructResult := rfl

/-! ### One memory word -/

@[simp] theorem memWrite_lat (a v : Word) : (s.memWrite a v).lat = s.lat := rfl
@[simp] theorem memWrite_freq (a v : Word) : (s.memWrite a v).freq = s.freq := rfl
@[simp] theorem memWrite_prog (a v : Word) : (s.memWrite a v).prog = s.prog := rfl
@[simp] theorem memWrite_slotD (a v : Word) : (s.memWrite a v).slotD = s.slotD := rfl
@[simp] theorem memWrite_slotE (a v : Word) : (s.memWrite a v).slotE = s.slotE := rfl
@[simp] theorem memWrite_slotM (a v : Word) : (s.memWrite a v).slotM = s.slotM := rfl
@[simp] theorem memWrite_slotW (a v : Word) : (s.memWrite a v).slotW = s.slotW := rfl
@[simp] theorem memWrite_queue (a v : Word) : (s.memWrite a v).queue = s.queue := rfl
@[simp] theorem memWrite_busy (a v : Word) : (s.memWrite a v).busy = s.busy := rfl
@[simp] theorem memWrite_pc (a v : Word) : (s.memWrite a v).pc = s.pc := rfl
@[simp] theorem memWrite_fwdCfg (a v : Word) : (s.memWrite a v).fwdCfg = s.fwdCfg := rfl
@[simp] theorem memWrite_committed (a v : Word) : (s.memWrite a v).committed = s.committed := rfl
@[simp] theorem memWrite_stalls (a v : Word) : (s.memWrite a v).stalls = s.stalls := rfl
@[simp] theorem memWrite_hazardBubbles (a v : Word) : (s.memWrite a v).hazardBubbles = s.hazardBubbles := rfl
@[simp] theorem memWrite_started (a v : Word) : (s.memWrite a v).started = s.started := rfl
@[simp] theorem memWrite_fault (a v : Word) : (s.memWrite a v).fault = s.fault := rfl
@[simp] theorem memWrite_trace (a v : Word) : (s.memWrite a v).trace = s.trace := rfl
@[simp] theorem memWrite_regs (a v : Word) : (s.memWrite a v).regs = s.regs := rfl
@[simp] theorem memWrite_runLeft (a v : Word) : (s.memWrite a v).runLeft = s.runLeft := rfl
@[simp] theorem memWrite_inbox (a v : Word) : (s.memWrite a v).inbox = s.inbox := rfl
@[simp] theorem memWrite_responses (a v : Word) : (s.memWrite a v).responses = s.responses := rfl
@[simp] theorem memWrite_constructResult (a v : Word) : (s.memWrite a v).constructResult = s.constructResult := rfl

/-! ### One slot chain -/

@[simp] theorem setSlots_lat (st : Stage) (l : List (Option InFlight)) : (s.setSlots st l).lat = s.lat := by cases st <;> rfl
@[simp] theorem setSlots_freq (st : Stage) (l : List (Option InFlight)) : (s.setSlots st l).freq = s.freq := by cases st <;> rfl
@[simp] theorem setSlots_prog (st : Stage) (l : List (Option InFlight)) : (s.setSlots st l).prog = s.prog := by cases st <;> rfl
@[simp] theorem setSlots_queue (st : Stage) (l : List (Option InFlight)) : (s.setSlots st l).queue = s.queue := by cases st <;> rfl
@[simp] theorem setSlots_busy (st : Stage) (l : List (Option InFlight)) : (s.setSlots st l).busy = s.busy := by cases st <;> rfl
@[simp] theorem setSlots_pc (st : Stage) (l : List (Option InFlight)) : (s.setSlots st l).pc = s.pc := by cases st <;> rfl
@[simp] theorem setSlots_fwdCfg (st : Stage) (l : List (Option InFlight)) : (s.setSlots st l).fwdCfg = s.fwdCfg := by cases st <;> rfl
@[simp] theorem setSlots_committed (st : Stage) (l : List (Option InFlight)) : (s.setSlots st l).committed = s.committed := by cases st <;> rfl
@[simp] theorem setSlots_stalls (st : Stage) (l : List (Option InFlight)) : (s.setSlots st l).stalls = s.stalls := by cases st <;> rfl
@[simp] theorem setSlots_hazardBubbles (st : Stage) (l : List (Option InFlight)) : (s.setSlots st l).hazardBubbles = s.hazardBubbles := by cases st <;> rfl
@[simp] theorem setSlots_started (st : Stage) (l : List (Option InFlight)) : (s.setSlots st l).started = s.started := by cases st <;> rfl
@[simp] theorem setSlots_fault (st : Stage) (l : List (Option InFlight)) : (s.setSlots st l).fault = s.fault := by cases st <;> rfl
@[simp] theorem setSlots_trace (st : Stage) (l : List (Option InFlight)) : (s.setSlots st l).trace = s.trace := by cases st <;> rfl
@[simp] theorem setSlots_regs (st : Stage) (l : List (Option InFlight)) : (s.setSlots st l).regs = s.regs := by cases st <;> rfl
@[simp] theorem setSlots_dmem (st : Stage) (l : List (Option InFlight)) : (s.setSlots st l).dmem = s.dmem := by cases st <;> rfl
@[simp] theorem setSlots_runLeft (st : Stage) (l : List (Option InFlight)) : (s.setSlots st l).runLeft = s.runLeft := by cases st <;> rfl
@[simp] theorem setSlots_inbox (st : Stage) (l : List (Option InFlight)) : (s.setSlots st l).inbox = s.inbox := by cases st <;> rfl
@[simp] theorem setSlots_responses (st : Stage) (l : List (Option InFlight)) : (s.setSlots st l).responses = s.responses := by cases st <;> rfl
@[simp] theorem setSlots_constructResult (st : Stage) (l : List (Option InFlight)) : (s.setSlots st l).constructResult = s.constructResult := by cases st <;> rfl

@[simp] theorem setSlots_decode_slotD (l : List (Option InFlight)) : (s.setSlots .decode l).slotD = l := rfl
@[simp] theorem setSlots_decode_slotE (l : List (Option InFlight)) : (s.setSlots .decode l).slotE = s.slotE := rfl
@[simp] theorem setSlots_decode_slotM (l : List (Option InFlight)) : (s.setSlots .decode l).slotM = s.slotM := rfl
@[simp] theorem setSlots_decode_slotW (l : List (Option InFlight)) : (s.setSlots .decode l).slotW = s.slotW := rfl
@[simp] theorem setSlots_execute_slotD (l : List (Option InFlight)) : (s.setSlots .execute l).slotD = s.slotD := rfl
@[simp] theorem setSlots_execute_slotE (l : List (Option InFlight)) : (s.setSlots .execute l).slotE = l := rfl
@[simp] theorem setSlots_execute_slotM (l : List (Option InFlight)) : (s.setSlots .execute l).slotM = s.slotM := rfl
@[simp] theorem setSlots_execute_slotW (l : List (Option InFlight)) : (s.setSlots .execute l).slotW = s.slotW := rfl
@[simp] theorem setSlots_memory_slotD (l : List (Option InFlight)) : (s.setSlots .memory l).slotD = s.slotD := rfl
@[simp] theorem setSlots_memory_slotE (l : List (Option InFlight)) : (s.setSlots .memory l).slotE = s.slotE := rfl
@[simp] theorem setSlots_memory_slotM (l : List (Option InFlight)) : (s.setSlots .memory l).slotM = l := rfl
@[simp] theorem setSlots_memory_slotW (l : List (Option InFlight)) : (s.setSlots .memory l).slotW = s.slotW := rfl
@[simp] theorem setSlots_writeback_slotD (l : List (Option InFlight)) : (s.setSlots .writeback l).slotD = s.slotD := rfl
@[simp] theorem setSlots_writeback_slotE (l : List (Option InFlight)) : (s.setSlots .writeback l).slotE = s.slotE := rfl
@[simp] theorem setSlots_writeback_slotM (l : List (Option InFlight)) : (s.setSlots .writeback l).slotM = s.slotM := rfl
@[simp] theorem setSlots_writeback_slotW (l : List (Option InFlight)) : (s.setSlots .writeback l).slotW = l := rfl
@[simp] theorem slots_decode : s.slots .decode = s.slotD := rfl
@[simp] theorem slots_execute : s.slots .execute = s.slotE := rfl
@[simp] theorem slots_memory : s.slots .memory = s.slotM := rfl
@[simp] theorem slots_writeback : s.slots .writeback = s.slotW := rfl
@[simp] theorem setSlots_slots (st : Stage) (l : List (Option InFlight)) : (s.setSlots st l).slots st = l := by cases st <;> rfl
theorem setSlots_slots_other (st st' : Stage) (l : List (Option InFlight)) (h : st' ≠ st) :
    (s.setSlots st l).slots st' = s.slots st' := by
  cases st <;> cases st' <;> first | rfl | exact absurd rfl h

/-! ### Updates that repeat an update: each changes one field only -/

theorem setXs_frame (rs : List RegId) (v : Word) : s.setXs rs v = { s with regs := (s.setXs rs v).regs } := by
  induction rs generalizing s with
  | nil => rfl
  | cons r rs ih =>
    show (s.setX r v).setXs rs v = _
    rw [ih]
    rfl

theorem raiseBusy_frame (rs : List RegId) : s.raiseBusy rs = { s with busy := (s.raiseBusy rs).busy } := by
  induction rs generalizing s with
  | nil => rfl
  | cons r rs ih =>
    show (s.setBusy r (s.busyOf r + 1)).raiseBusy rs = _
    rw [ih]
    rfl

theorem lowerBusy_frame (rs : List RegId) : s.lowerBusy rs = { s with busy := (s.lowerBusy rs).busy } := by
  induction rs generalizing s with
  | nil => rfl
  | cons r rs ih =>
    show (s.setBusy r (s.busyOf r - 1)).lowerBusy rs = _
    rw [ih]
    rfl

/-! ### Registers of a list -/

@[simp] theorem setXs_lat (rs : List RegId) (v : Word) : (s.setXs rs v).lat = s.lat := by rw [setXs_frame]
@[simp] theorem setXs_freq (rs : List RegId) (v : Word) : (s.setXs rs v).freq = s.freq := by rw [setXs_frame]
@[simp] theorem setXs_prog (rs : List RegId) (v : Word) : (s.setXs rs v).prog = s.prog := by rw [setXs_frame]
@[simp] theorem setXs_slotD (rs : List RegId) (v : Word) : (s.setXs rs v).slotD = s.slotD := by rw [setXs_frame]
@[simp] theorem setXs_slotE (rs : List RegId) (v : Word) : (s.setXs rs v).slotE = s.slotE := by rw [setXs_frame]
@[simp] theorem setXs_slotM (rs : List RegId) (v : Word) : (s.setXs rs v).slotM = s.slotM := by rw [setXs_frame]
@[simp] theorem setXs_slotW (rs : List RegId) (v : Word) : (s.setXs rs v).slotW = s.slotW := by rw [setXs_frame]
@[simp] theorem setXs_queue (rs : List RegId) (v : Word) : (s.setXs rs v).queue = s.queue := by rw [setXs_frame]
@[simp] theorem setXs_busy (rs : List RegId) (v : Word) : (s.setXs rs v).busy = s.busy := by rw [setXs_frame]
@[simp] theorem setXs_pc (rs : List RegId) (v : Word) : (s.setXs rs v).pc = s.pc := by rw [setXs_frame]
@[simp] theorem setXs_fwdCfg (rs : List RegId) (v : Word) : (s.setXs rs v).fwdCfg = s.fwdCfg := by rw [setXs_frame]
@[simp] theorem setXs_committed (rs : List RegId) (v : Word) : (s.setXs rs v).committed = s.committed := by rw [setXs_frame]
@[simp] theorem setXs_stalls (rs : List RegId) (v : Word) : (s.setXs rs v).stalls = s.stalls := by rw [setXs_frame]
@[simp] theorem setXs_hazardBubbles (rs : List RegId) (v : Word) : (s.setXs rs v).hazardBubbles = s.hazardBubbles := by rw [setXs_frame]
@[simp] theorem setXs_started (rs : List RegId) (v : Word) : (s.setXs rs v).started = s.started := by rw [setXs_frame]
@[simp] theorem setXs_fault (rs : List RegId) (v : Word) : (s.setXs rs v).fault = s.fault := by rw [setXs_frame]
@[simp] theorem setXs_trace (rs : List RegId) (v : Word) : (s.setXs rs v).trace = s.trace := by rw [setXs_frame]
@[simp] theorem setXs_dmem (rs : List RegId) (v : Word) : (s.setXs rs v).dmem = s.dmem := by rw [setXs_frame]
@[simp] theorem setXs_runLeft (rs : List RegId) (v : Word) : (s.setXs rs v).runLeft = s.runLeft := by rw [setXs_frame]
@[simp] theorem setXs_inbox (rs : List RegId) (v : Word) : (s.setXs rs v).inbox = s.inbox := by rw [setXs_frame]
@[simp] theorem setXs_responses (rs : List RegId) (v : Word) : (s.setXs rs v).responses = s.responses := by rw [setXs_frame]
@[simp] theorem setXs_constructResult (rs : List RegId) (v : Word) : (s.setXs rs v).constructResult = s.constructResult := by rw [setXs_frame]

/-! ### Busy counts raised -/

@[simp] theorem raiseBusy_lat (rs : List RegId) : (s.raiseBusy rs).lat = s.lat := by rw [raiseBusy_frame]
@[simp] theorem raiseBusy_freq (rs : List RegId) : (s.raiseBusy rs).freq = s.freq := by rw [raiseBusy_frame]
@[simp] theorem raiseBusy_prog (rs : List RegId) : (s.raiseBusy rs).prog = s.prog := by rw [raiseBusy_frame]
@[simp] theorem raiseBusy_slotD (rs : List RegId) : (s.raiseBusy rs).slotD = s.slotD := by rw [raiseBusy_frame]
@[simp] theorem raiseBusy_slotE (rs : List RegId) : (s.raiseBusy rs).slotE = s.slotE := by rw [raiseBusy_frame]
@[simp] theorem raiseBusy_slotM (rs : List RegId) : (s.raiseBusy rs).slotM = s.slotM := by rw [raiseBusy_frame]
@[simp] theorem raiseBusy_slotW (rs : List RegId) : (s.raiseBusy rs).slotW = s.slotW := by rw [raiseBusy_frame]
@[simp] theorem raiseBusy_queue (rs : List RegId) : (s.raiseBusy rs).queue = s.queue := by rw [raiseBusy_frame]
@[simp] theorem raiseBusy_pc (rs : List RegId) : (s.raiseBusy rs).pc = s.pc := by rw [raiseBusy_frame]
@[simp] theorem raiseBusy_fwdCfg (rs : List RegId) : (s.raiseBusy rs).fwdCfg = s.fwdCfg := by rw [raiseBusy_frame]
@[simp] theorem raiseBusy_committed (rs : List RegId) : (s.raiseBusy rs).committed = s.committed := by rw [raiseBusy_frame]
@[simp] theorem raiseBusy_stalls (rs : List RegId) : (s.raiseBusy rs).stalls = s.stalls := by rw [raiseBusy_frame]
@[simp] theorem raiseBusy_hazardBubbles (rs : List RegId) : (s.raiseBusy rs).hazardBubbles = s.hazardBubbles := by rw [raiseBusy_frame]
@[simp] theorem raiseBusy_started (rs : List RegId) : (s.raiseBusy rs).started = s.started := by rw [raiseBusy_frame]
@[simp] theorem raiseBusy_fault (rs : List RegId) : (s.raiseBusy rs).fault = s.fault := by rw [raiseBusy_frame]
@[simp] theorem raiseBusy_trace (rs : List RegId) : (s.raiseBusy rs).trace = s.trace := by rw [raiseBusy_frame]
@[simp] theorem raiseBusy_regs (rs : List RegId) : (s.raiseBusy rs).regs = s.regs := by rw [raiseBusy_frame]
@[simp] theorem raiseBusy_dmem (rs : List RegId) : (s.raiseBusy rs).dmem = s.dmem := by rw [raiseBusy_frame]
@[simp] theorem raiseBusy_runLeft (rs : List RegId) : (s.raiseBusy rs).runLeft = s.runLeft := by rw [raiseBusy_frame]
@[simp] theorem raiseBusy_inbox (rs : List RegId) : (s.raiseBusy rs).inbox = s.inbox := by rw [raiseBusy_frame]
@[simp] theorem raiseBusy_responses (rs : List RegId) : (s.raiseBusy rs).responses = s.responses := by rw [raiseBusy_frame]
@[simp] theorem raiseBusy_constructResult (rs : List RegId) : (s.raiseBusy rs).constructResult = s.constructResult := by rw [raiseBusy_frame]

/-! ### Busy counts lowered -/

@[simp] theorem lowerBusy_lat (rs : List RegId) : (s.lowerBusy rs).lat = s.lat := by rw [lowerBusy_frame]
@[simp] theorem lowerBusy_freq (rs : List RegId) : (s.lowerBusy rs).freq = s.freq := by rw [lowerBusy_frame]
@[simp] theorem lowerBusy_prog (rs : List RegId) : (s.lowerBusy rs).prog = s.prog := by rw [lowerBusy_frame]
@[simp] theorem lowerBusy_slotD (rs : List RegId) : (s.lowerBusy rs).slotD = s.slotD := by rw [lowerBusy_frame]
@[simp] theorem lowerBusy_slotE (rs : List RegId) : (s.lowerBusy rs).slotE = s.slotE := by rw [lowerBusy_frame]
@[simp] theorem lowerBusy_slotM (rs : List RegId) : (s.lowerBusy rs).slotM = s.slotM := by rw [lowerBusy_frame]
@[simp] theorem lowerBusy_slotW (rs : List RegId) : (s.lowerBusy rs).slotW = s.slotW := by rw [lowerBusy_frame]
@[simp] theorem lowerBusy_queue (rs : List RegId) : (s.lowerBusy rs).queue = s.queue := by rw [lowerBusy_frame]
@[simp] theorem lowerBusy_pc (rs : List RegId) : (s.lowerBusy rs).pc = s.pc := by rw [lowerBusy_frame]
@[simp] theorem lowerBusy_fwdCfg (rs : List RegId) : (s.lowerBusy rs).fwdCfg = s.fwdCfg := by rw [lowerBusy_frame]
@[simp] theorem lowerBusy_committed (rs : List RegId) : (s.lowerBusy rs).committed = s.committed := by rw [lowerBusy_frame]
@[simp] theorem lowerBusy_stalls (rs : List RegId) : (s.lowerBusy rs).stalls = s.stalls := by rw [lowerBusy_frame]
@[simp] theorem lowerBusy_hazardBubbles (rs : List RegId) : (s.lowerBusy rs).hazardBubbles = s.hazardBubbles := by rw [lowerBusy_frame]
@[simp] theorem lowerBusy_started (rs : List RegId) : (s.lowerBusy rs).started = s.started := by rw [lowerBusy_frame]
@[simp] theorem lowerBusy_fault (rs : List RegId) : (s.lowerBusy rs).fault = s.fault := by rw [lowerBusy_frame]
@[simp] theorem lowerBusy_trace (rs : List RegId) : (s.lowerBusy rs).trace = s.trace := by rw [lowerBusy_frame]
@[simp] theorem lowerBusy_regs (rs : List RegId) : (s.lowerBusy rs).regs = s.regs := by rw [lowerBusy_frame]
@[simp] theorem lowerBusy_dmem (rs : List RegId) : (s.lowerBusy rs).dmem = s.dmem := by rw [lowerBusy_frame]
@[simp] theorem lowerBusy_runLeft (rs : List RegId) : (s.lowerBusy rs).runLeft = s.runLeft := by rw [lowerBusy_frame]
@[simp] theorem lowerBusy_inbox (rs : List RegId) : (s.lowerBusy rs).inbox = s.inbox := by rw [lowerBusy_frame]
@[simp] theorem lowerBusy_responses (rs : List RegId) : (s.lowerBusy rs).responses = s.responses := by rw [lowerBusy_frame]
@[simp] theorem lowerBusy_constructResult (rs : List RegId) : (s.lowerBusy rs).constructResult = s.constructResult := by rw [lowerBusy_frame]

/-! ### A kill changes busy counts only -/

/-- Two updates of busy counts, one after the other, are an update of busy counts. -/
theorem busy_frame_trans {s t u : State} (h : t = { s with busy := t.busy }) (h' : u = { t with busy := u.busy }) :
    u = { s with busy := u.busy } := by
  generalize t.busy = b at h
  generalize u.busy = c at h' ⊢
  subst h
  exact h'

theorem killSlot_frame (e : Option InFlight) : killSlot s e = { s with busy := (killSlot s e).busy } := by
  cases e with
  | none => rfl
  | some K => exact lowerBusy_frame s _

theorem killEntry_frame (e : QEntry) : killEntry s e = { s with busy := (killEntry s e).busy } := by
  cases e with
  | bubble => rfl
  | held K => exact lowerBusy_frame s _

theorem killChain_frame (l : List (Option InFlight)) : killChain l s = { s with busy := (killChain l s).busy } := by
  induction l with
  | nil => rfl
  | cons e l ih =>
    exact busy_frame_trans ih (killSlot_frame (killChain l s) e)

theorem killQueue_frame (q : List QEntry) :
    q.foldl killEntry s = { s with busy := (q.foldl killEntry s).busy } := by
  induction q generalizing s with
  | nil => rfl
  | cons e q ih =>
    exact busy_frame_trans (killEntry_frame s e) (ih (killEntry s e))

/-- A redirection writes `pc`, the D slots, the queue and busy counts, and nothing else (R239). -/
theorem redirect_frame (t : Word) : redirect t s =
    { s with pc := t, slotD := s.slotD.map fun _ => none, queue := [], busy := (redirect t s).busy } := by
  have h := busy_frame_trans (killChain_frame s s.slotD) (killQueue_frame (killChain s.slotD s) s.queue)
  unfold redirect
  simp only
  rw [h]

/-! ### The FAULTED state -/

theorem enterFaulted_frame (k : FaultKind) : enterFaulted k s = { s with fault := (enterFaulted k s).fault } := by
  unfold enterFaulted
  split <;> rfl

/-- Entering the FAULTED state sets the code when there is none and keeps the first code otherwise (R289). -/
theorem enterFaulted_fault (k : FaultKind) : (enterFaulted k s).fault = if s.fault = 0#4 then k.code else s.fault := by
  unfold enterFaulted
  split <;> rfl

/-- No fault kind has the code 0 (R280). -/
theorem code_ne_zero (k : FaultKind) : k.code ≠ 0#4 := by cases k <;> decide

end Sys2Proof.Machine
end

