-- ==== Sys2Proof/Laws/Ops.lean ====
section
/-! SUPPORT. What the operations of Machine/Ops.lean do: read after write, the canonical form of memory, registers, busy counts. -/

namespace Sys2Proof.Machine

/-! ### Data memory -/

/-- A lower bound on the addresses may be lowered. -/
theorem wfFrom_mono {lo lo' : Nat} {m : Memory} (h : lo' ≤ lo) (hm : Memory.wfFrom lo m = true) :
    Memory.wfFrom lo' m = true := by
  cases m with
  | nil => rfl
  | cons c rest =>
    simp only [Memory.wfFrom, Bool.and_eq_true, decide_eq_true_eq] at hm ⊢
    exact ⟨⟨⟨by omega, hm.1.1.2⟩, hm.1.2⟩, hm.2⟩

/-- Below every listed address a memory reads as unlisted. -/
theorem readAt_of_lt {lo a : Nat} {m : Memory} (hm : Memory.wfFrom lo m = true) (h : a < lo) :
    Memory.readAt m a = unlistedWord := by
  induction m generalizing lo with
  | nil => rfl
  | cons c rest ih =>
    simp only [Memory.wfFrom, Bool.and_eq_true, decide_eq_true_eq] at hm
    simp only [Memory.readAt]
    rw [if_neg (by omega)]
    exact ih hm.2 (by omega)

/-- A write keeps the canonical form. -/
theorem writeAt_wfFrom {lo a : Nat} {m : Memory} (v : Word) (hm : Memory.wfFrom lo m = true) (h : lo ≤ a) (ha : a < 2 ^ 32) :
    Memory.wfFrom lo (Memory.writeAt m a v) = true := by
  induction m generalizing lo with
  | nil =>
    by_cases hv : v = unlistedWord
    · simp [Memory.writeAt, Memory.wfFrom, hv]
    · simpa [Memory.writeAt, Memory.wfFrom, hv, h] using ha
  | cons c rest ih =>
    have hc := hm
    simp only [Memory.wfFrom, Bool.and_eq_true, decide_eq_true_eq] at hc
    simp only [Memory.writeAt]
    by_cases hlt : a < c.1
    · rw [if_pos hlt]
      by_cases hv : v = unlistedWord
      · rw [if_pos hv]; exact hm
      · rw [if_neg hv]
        simp only [Memory.wfFrom, Bool.and_eq_true, decide_eq_true_eq, bne_iff_ne, ne_eq]
        refine ⟨⟨⟨h, ha⟩, hv⟩, ⟨⟨⟨by omega, hc.1.1.2⟩, ?_⟩, hc.2⟩⟩
        simpa using hc.1.2
    · rw [if_neg hlt]
      by_cases heq : a = c.1
      · rw [if_pos heq]
        by_cases hv : v = unlistedWord
        · rw [if_pos hv]; exact wfFrom_mono (by omega) hc.2
        · rw [if_neg hv]
          simp only [Memory.wfFrom, Bool.and_eq_true, decide_eq_true_eq, bne_iff_ne, ne_eq]
          exact ⟨⟨⟨h, ha⟩, hv⟩, heq ▸ hc.2⟩
      · rw [if_neg heq]
        simp only [Memory.wfFrom, Bool.and_eq_true, decide_eq_true_eq]
        exact ⟨hc.1, ih hc.2 (by omega)⟩

/-- Reading after a write: the value at the written address, the old value elsewhere. -/
theorem readAt_writeAt {lo a b : Nat} {m : Memory} (v : Word) (hm : Memory.wfFrom lo m = true) :
    Memory.readAt (Memory.writeAt m a v) b = if b = a then v else Memory.readAt m b := by
  induction m generalizing lo with
  | nil =>
    by_cases hv : v = unlistedWord
    · simp [Memory.writeAt, Memory.readAt, hv]
    · simp only [Memory.writeAt, if_neg hv, Memory.readAt, eq_comm]
  | cons c rest ih =>
    have hc := hm
    simp only [Memory.wfFrom, Bool.and_eq_true, decide_eq_true_eq] at hc
    simp only [Memory.writeAt]
    by_cases hlt : a < c.1
    · rw [if_pos hlt]
      by_cases hv : v = unlistedWord
      · rw [if_pos hv]
        by_cases hb : b = a
        · subst hb
          rw [if_pos rfl, hv]
          exact readAt_of_lt (lo := c.1) (by
            simp only [Memory.wfFrom, Bool.and_eq_true, decide_eq_true_eq]
            exact ⟨⟨⟨le_refl _, hc.1.1.2⟩, hc.1.2⟩, hc.2⟩) hlt
        · rw [if_neg hb]
      · rw [if_neg hv]
        by_cases hb : b = a
        · simp [Memory.readAt, hb]
        · rw [if_neg hb]
          conv_lhs => rw [Memory.readAt]
          rw [if_neg (fun e => hb e.symm)]
    · rw [if_neg hlt]
      by_cases heq : a = c.1
      · rw [if_pos heq]
        by_cases hb : b = a
        · subst hb
          rw [if_pos rfl]
          by_cases hv : v = unlistedWord
          · rw [if_pos hv, hv]
            exact readAt_of_lt hc.2 (by omega)
          · rw [if_neg hv]
            simp [Memory.readAt]
        · rw [if_neg hb]
          by_cases hv : v = unlistedWord
          · rw [if_pos hv]
            simp only [Memory.readAt]
            rw [if_neg (by omega)]
          · rw [if_neg hv]
            simp only [Memory.readAt]
            rw [if_neg (fun e => hb e.symm), if_neg (by omega)]
      · rw [if_neg heq]
        simp only [Memory.readAt]
        by_cases hcb : c.1 = b
        · rw [if_pos hcb, if_neg (by omega), if_pos hcb]
        · rw [if_neg hcb, if_neg hcb]
          exact ih hc.2

/-- The memory of a list of pairs is in canonical form. -/
theorem ofPairs_wf (l : List (Word × Word)) : Memory.wf (Memory.ofPairs l) = true := by
  suffices h : ∀ m : Memory, Memory.wf m = true →
      Memory.wf (l.foldl (fun m p => Memory.writeAt m p.1.toNat p.2) m) = true from h [] rfl
  induction l with
  | nil => exact fun m hm => hm
  | cons p l ih => exact fun m hm => ih _ (writeAt_wfFrom p.2 hm (Nat.zero_le _) p.1.isLt)

/-- MemWrite keeps the canonical form. -/
theorem memWrite_wf (s : State) (a v : Word) (h : Memory.wf s.dmem = true) : Memory.wf (s.memWrite a v).dmem = true :=
  writeAt_wfFrom v h (Nat.zero_le _) a.isLt

/-- The reset state's memory has the canonical form. -/
theorem reset_memory_wf : Memory.wf State.reset.dmem = true := rfl

/-- MemRead after MemWrite (R62). -/
theorem memRead_memWrite (s : State) (a b v : Word) (h : Memory.wf s.dmem = true) :
    (s.memWrite a v).memRead b = if b = a then v else s.memRead b := by
  have := readAt_writeAt (a := a.toNat) (b := b.toNat) v h
  simp only [State.memRead, State.memWrite, this, BitVec.toNat_inj]

/-! ### Registers and busy counts -/

theorem x_setX (s : State) (r q : RegId) (v : Word) : (s.setX r v).x q = if q = r then v else s.x q := by
  simp only [State.x, State.setX, Vector.getElem_set, BitVec.toNat_inj, eq_comm]

/-- Writing a list of registers: each listed one holds the value, the others what they held (R114). -/
theorem x_setXs (s : State) (rs : List RegId) (v : Word) (q : RegId) :
    (s.setXs rs v).x q = if q ∈ rs then v else s.x q := by
  induction rs generalizing s with
  | nil => simp [State.setXs]
  | cons r rs ih =>
    show ((s.setX r v).setXs rs v).x q = _
    rw [ih, x_setX]
    by_cases h : q ∈ rs <;> by_cases h' : q = r <;> simp [h, h']

theorem busyOf_setBusy (s : State) (r q : RegId) (n : Nat) :
    (s.setBusy r n).busyOf q = if q = r then n else s.busyOf q := by
  simp only [State.busyOf, State.setBusy, Vector.getElem_set, BitVec.toNat_inj, eq_comm]

/-- Raising adds one for each occurrence (R174). -/
theorem busyOf_raiseBusy (s : State) (rs : List RegId) (q : RegId) :
    (s.raiseBusy rs).busyOf q = s.busyOf q + rs.count q := by
  induction rs generalizing s with
  | nil => simp [State.raiseBusy]
  | cons r rs ih =>
    show ((s.setBusy r (s.busyOf r + 1)).raiseBusy rs).busyOf q = _
    rw [ih, busyOf_setBusy]
    by_cases h : q = r
    · subst h; simp; omega
    · simp [h, Ne.symm h]

/-- Lowering takes one for each occurrence (R173, R233). -/
theorem busyOf_lowerBusy (s : State) (rs : List RegId) (q : RegId) :
    (s.lowerBusy rs).busyOf q = s.busyOf q - rs.count q := by
  induction rs generalizing s with
  | nil => simp [State.lowerBusy]
  | cons r rs ih =>
    show ((s.setBusy r (s.busyOf r - 1)).lowerBusy rs).busyOf q = _
    rw [ih, busyOf_setBusy]
    by_cases h : q = r
    · subst h; simp; omega
    · simp [h, Ne.symm h]

/-- Two states with the same busy counts of every register have the same busy table. -/
theorem busy_ext {v w : Vector Nat 32} (h : ∀ r : RegId, v[r.toNat]'r.isLt = w[r.toNat]'r.isLt) : v = w := by
  apply Vector.ext
  intro i hi
  have := h (BitVec.ofNat 5 i)
  simpa [Nat.mod_eq_of_lt hi] using this

/-! ### Instruction memory -/

/-- An instruction stands at the aligned addresses of the program and nowhere else (R61). -/
theorem imem_eq_some {prog : List Instr} {a : Word} {i : Instr} :
    imem prog a = some i ↔
      (a - Config.base).extractLsb' 0 2 = 0#2 ∧ prog[(a - Config.base).toNat / 4]? = some i := by
  unfold imem
  simp only
  by_cases h : (a - Config.base).extractLsb' 0 2 = 0#2 <;> simp [h]

end Sys2Proof.Machine
end

