-- ==== Sys2Proof/Laws/Stage.lean ====
section
/-! SUPPORT. What the stage operations do: each behaviour keeps a record's identity and changes only the register file or the
data memory; a chain keeps its length; `load` and `doExecute` said once. -/

namespace Sys2Proof.Machine

/-! ### Behaviours -/

/-- behE reads the state and leaves it as it is (R112). -/
theorem behE_state (s : State) (I : InFlight) : (behE s I).state = s := by
  unfold behE
  split <;> rfl

/-- behE keeps the record's identity (R23). -/
theorem behE_identity (s : State) (I : InFlight) : (behE s I).record.identity = I.identity := by
  unfold behE
  split <;> rfl

/-- behE returns a target exactly for a jump (R230). -/
theorem behE_target (s : State) (I : InFlight) :
    (behE s I).target = match I.instr with
      | .j index26 => some (jumpTarget I.addr index26)
      | _ => none := by
  unfold behE
  split <;> simp_all [jE]

/-- What behM can do: fault on a misaligned access of lw or sw, read a Word into `res`, write a Word, or nothing (R113, R120,
R121). -/
theorem behM_ok {s : State} {I : InFlight} {b : Behaved} (h : behM s I = .ok b) :
    b.target = none ∧ b.record.identity = I.identity ∧
      (b.state = s ∨
        (∃ rt rs off, I.instr = .sw rt rs off ∧ wordAligned I.ea = true ∧ b.state = s.memWrite I.ea I.sdata)) := by
  unfold behM at h
  split at h
  case h_4 =>
    unfold lwM at h
    split at h
    · cases h; exact ⟨rfl, rfl, .inl rfl⟩
    · cases h
  case h_5 rt rs off hi =>
    unfold swM at h
    split at h
    · cases h; exact ⟨rfl, rfl, .inr ⟨rt, rs, off, hi, ‹_›, rfl⟩⟩
    · cases h
  all_goals cases h; exact ⟨rfl, rfl, .inl rfl⟩

/-- behM faults only with MisalignedData, and only for lw and sw at an address that is not 4-aligned (R118, R287). -/
theorem behM_error {s : State} {I : InFlight} {k : FaultKind} (h : behM s I = .error k) :
    k = .misalignedData ∧ wordAligned I.ea = false ∧
      ((∃ rt rs off, I.instr = .lw rt rs off) ∨ ∃ rt rs off, I.instr = .sw rt rs off) := by
  unfold behM at h
  split at h
  case h_4 rt rs off hi =>
    unfold lwM at h
    split at h
    · cases h
    next hna => cases h; exact ⟨rfl, Bool.eq_false_iff.mpr hna, .inl ⟨rt, rs, off, hi⟩⟩
  case h_5 rt rs off hi =>
    unfold swM at h
    split at h
    · cases h
    next hna => cases h; exact ⟨rfl, Bool.eq_false_iff.mpr hna, .inr ⟨rt, rs, off, hi⟩⟩
  all_goals cases h

/-- What a stage behaviour can do, in one place (R110). -/
theorem behaviour_ok {st : Stage} {s : State} {I : InFlight} {b : Behaved} (h : behaviour st s I = .ok b) :
    b.record.identity = I.identity ∧ (st ≠ .execute → b.target = none) ∧
      b.state = { s with regs := b.state.regs, dmem := b.state.dmem } := by
  cases st with
  | decode => cases h; exact ⟨rfl, fun _ => rfl, rfl⟩
  | execute =>
    cases h
    refine ⟨behE_identity s I, fun hne => absurd rfl hne, ?_⟩
    rw [behE_state]
  | memory =>
    obtain ⟨ht, hi, hs | ⟨_, _, _, _, _, hs⟩⟩ := behM_ok h
    · exact ⟨hi, fun _ => ht, by rw [hs]⟩
    · exact ⟨hi, fun _ => ht, by rw [hs]; rfl⟩
  | writeback =>
    cases h
    refine ⟨rfl, fun _ => rfl, ?_⟩
    show s.setXs _ _ = { s with regs := (s.setXs _ _).regs, dmem := (s.setXs _ _).dmem }
    rw [setXs_dmem]
    exact setXs_frame s _ _

/-! ### Chains -/

/-- Running a chain changes register file, data memory and busy counts only, and keeps the chain's length (R152). -/
theorem runChain_ok {st : Stage} {l : List (Option InFlight)} {s : State} {r : ChainRun} (h : runChain st l s = .ok r) :
    r.slots.length = l.length ∧
      r.state = { s with regs := r.state.regs, dmem := r.state.dmem, busy := r.state.busy } := by
  induction l generalizing r with
  | nil => cases h; exact ⟨rfl, rfl⟩
  | cons y older ih =>
    simp only [runChain] at h
    split at h
    · cases h
    next q hq =>
      obtain ⟨hlen, hst⟩ := ih hq
      split at h
      · cases h
        refine ⟨by simp [hlen], ?_⟩
        rw [killSlot_frame, hst]
      · cases h
        exact ⟨by simp [hlen], hst⟩
      next I _ _ =>
        split at h
        · cases h
        next b hb =>
          cases h
          refine ⟨by simp [hlen], ?_⟩
          obtain ⟨-, -, hbs⟩ := behaviour_ok hb
          show b.state = _
          rw [hbs, hst]

/-- Only M can fault while a chain runs, and only with MisalignedData (R118, R290). -/
theorem runChain_error {st : Stage} {l : List (Option InFlight)} {s : State} {k : FaultKind}
    (h : runChain st l s = .error k) : st = .memory ∧ k = .misalignedData := by
  induction l with
  | nil => cases h
  | cons y older ih =>
    simp only [runChain] at h
    split at h
    next e he => cases h; exact ih he
    next q hq =>
      split at h
      · cases h
      · cases h
      · split at h
        next e he =>
          cases h
          cases st with
          | decode => cases he
          | execute => cases he
          | memory => exact ⟨rfl, (behM_error he).1⟩
          | writeback => cases he
        · cases h

/-- No stage but E redirects (R153). -/
theorem runChain_target {st : Stage} {l : List (Option InFlight)} {s : State} {r : ChainRun}
    (h : runChain st l s = .ok r) (hst : st ≠ .execute) : r.target = none := by
  induction l generalizing r with
  | nil => cases h; rfl
  | cons y older ih =>
    simp only [runChain] at h
    split at h
    · cases h
    next q hq =>
      split at h
      next t _ ht => exact absurd (ih hq) (by simp [ht])
      · cases h; rfl
      · split at h
        · cases h
        next b hb => cases h; exact (behaviour_ok hb).2.1 hst

/-- The shift keeps a chain's length. -/
@[simp] theorem shiftChain_length (l : List (Option InFlight)) : (shiftChain l).length = l.length := by
  simp [shiftChain]

/-- The shift leaves the entry slot empty (R152). -/
theorem shiftChain_entry {l : List (Option InFlight)} (h : l ≠ []) : ∃ older, shiftChain l = none :: older := by
  cases l with
  | nil => exact absurd rfl h
  | cons e l => exact ⟨(e :: l).dropLast, by simp [shiftChain, List.dropLast]⟩

/-- What `doExecute` does: the chain runs, its exit slot falls out, and it shifts by one (R152). -/
theorem doExecute_ok {st : Stage} {s : State} {d : Emitted} (h : doExecute st s = .ok d) :
    ∃ r, runChain st (s.slots st) s = .ok r ∧ d.out = exitOf r.slots ∧ d.target = r.target ∧
      d.state = r.state.setSlots st (shiftChain r.slots) := by
  unfold doExecute at h
  split at h
  · cases h
  next r hr => cases h; exact ⟨r, hr, rfl, rfl, rfl⟩

/-- `doExecute` faults only in M, with MisalignedData (R290). -/
theorem doExecute_error {st : Stage} {s : State} {k : FaultKind} (h : doExecute st s = .error k) :
    st = .memory ∧ k = .misalignedData := by
  unfold doExecute at h
  split at h
  next e he => cases h; exact runChain_error he
  · cases h

/-- What `load` does: the entry slot was empty and takes the entry; nothing else changes (R151). -/
theorem load_ok {st : Stage} {e : Option InFlight} {s t : State} (h : load st e s = .ok t) :
    ∃ older, s.slots st = none :: older ∧ t = s.setSlots st (e :: older) := by
  unfold load at h
  split at h
  next older ho => cases h; exact ⟨older, ho, rfl⟩
  · cases h
  · cases h

/-- `load` faults only with DoubleLoad (R282). -/
theorem load_error {st : Stage} {e : Option InFlight} {s : State} {k : FaultKind} (h : load st e s = .error k) :
    k = .doubleLoad := by
  unfold load at h
  split at h
  · cases h
  · cases h; rfl
  · cases h; rfl

/-! ### The stall search -/

/-- What viability says: past retirement, or the exact offset of the enabled edge of the producer's rra stage (R208). -/
theorem viable_iff {lat : Latencies} {cfg : BitVec 16} {rra : Option Rra} {d : Nat} :
    viable lat cfg rra d = true ↔
      lat.total ≤ d ∨ (rra = some .ex ∧ cfg.getLsbD 5 = true ∧ d = lat.e) ∨
        (rra = some .mem ∧ cfg.getLsbD 9 = true ∧ d = lat.e + lat.m) := by
  simp [viable, edgeBit, Stage.code, and_assoc, or_assoc]

/-- What the search answers: a count that every producer allows, within the ceiling, and the least one (R207). -/
theorem searchStall_ok {lat : Latencies} {cfg : BitVec 16} {prods : List (Option Rra × Nat)} {k : Nat}
    (h : searchStall lat cfg prods = .ok k) :
    k < lat.total + 2 ∧ allViable lat cfg prods k = true ∧ ∀ k' < k, allViable lat cfg prods k' = false := by
  unfold searchStall at h
  split at h
  next j hj =>
    cases h
    rw [List.find?_range_eq_some] at hj
    exact ⟨by simpa using hj.2.1, hj.1, fun k' hk' => by simpa using hj.2.2 k' hk'⟩
  · cases h

/-- The search fails only when no count up to the ceiling is allowed (R207, R283). -/
theorem searchStall_error {lat : Latencies} {cfg : BitVec 16} {prods : List (Option Rra × Nat)} {f : FaultKind}
    (h : searchStall lat cfg prods = .error f) :
    f = .unconfiguredHazard ∧ ∀ k < lat.total + 2, allViable lat cfg prods k = false := by
  unfold searchStall at h
  split at h
  · cases h
  next hn =>
    cases h
    refine ⟨rfl, fun k hk => ?_⟩
    rw [List.find?_eq_none] at hn
    simpa using hn k (List.mem_range.mpr hk)

end Sys2Proof.Machine
end

