-- ==== Sys2Proof/Laws/Cycle.lean ====
section
/-! SUPPORT. What a cycle and a step can do, said once: inversion lemmas for the five steps, the cycle, `exec` and `step`. -/

namespace Sys2Proof.Machine

/-- A sequence that succeeds: its first part succeeded and so did the rest. -/
theorem bind_eq_ok {α β : Type} {x : Except FaultKind α} {f : α → Except FaultKind β} {b : β}
    (h : (x >>= f) = .ok b) : ∃ a, x = .ok a ∧ f a = .ok b := by
  cases x with
  | error e => cases h
  | ok a => exact ⟨a, rfl, h⟩

/-- A sequence that faults: its first part faulted, or it succeeded and the rest faulted. -/
theorem bind_eq_error {α β : Type} {x : Except FaultKind α} {f : α → Except FaultKind β} {k : FaultKind}
    (h : (x >>= f) = .error k) : x = .error k ∨ ∃ a, x = .ok a ∧ f a = .error k := by
  cases x with
  | error e => cases h; exact .inl rfl
  | ok a => exact .inr ⟨a, rfl, h⟩

/-- Step 2: the four drains in their order, with the redirection between E and D (R172). -/
theorem drainStep_ok {f : Option InFlight} {s : State} {d : Transit × State} (h : drainStep f s = .ok d) :
    ∃ w m e x, doExecute .writeback s = .ok w ∧ doExecute .memory w.state = .ok m ∧
      doExecute .execute m.state = .ok e ∧ doExecute .decode (redirectStep e.target f e.state).2 = .ok x ∧
      d = (⟨(redirectStep e.target f e.state).1, x.out, e.out, m.out, w.out⟩, x.state) := by
  obtain ⟨w, hw, h⟩ := bind_eq_ok h
  obtain ⟨m, hm, h⟩ := bind_eq_ok h
  obtain ⟨e, he, h⟩ := bind_eq_ok h
  obtain ⟨x, hx, h⟩ := bind_eq_ok h
  cases h
  exact ⟨w, m, e, x, hw, hm, he, hx, rfl⟩

/-- Step 2 faults only with MisalignedData (R290). -/
theorem drainStep_error {f : Option InFlight} {s : State} {k : FaultKind} (h : drainStep f s = .error k) :
    k = .misalignedData := by
  rcases bind_eq_error h with h | ⟨w, -, h⟩
  · exact (doExecute_error h).2
  rcases bind_eq_error h with h | ⟨m, -, h⟩
  · exact (doExecute_error h).2
  rcases bind_eq_error h with h | ⟨e, -, h⟩
  · exact (doExecute_error h).2
  rcases bind_eq_error h with h | ⟨x, -, h⟩
  · exact (doExecute_error h).2
  cases h

/-- Step 4: the fetched instruction is queued behind its bubbles and its busy counts are raised, or a bubble is queued when the
queue is empty (R174). -/
theorem issueStep_ok {t : Transit} {s s' : State} (h : issueStep t s = .ok s') :
    (∃ J k, t.fetched = some J ∧ stallCount t s J.instr = .ok k ∧
      s' = State.raiseBusy
        { s with queue := s.queue ++ List.replicate k QEntry.bubble ++ [QEntry.held J],
                 hazardBubbles := s.hazardBubbles + BitVec.ofNat 64 k } (dsts J.instr)) ∨
    (t.fetched = none ∧ s.queue ≠ [] ∧ s' = s) ∨
    (t.fetched = none ∧ s.queue = [] ∧ s' = { s with queue := [.bubble] }) := by
  unfold issueStep at h
  split at h
  next J hJ =>
    split at h
    · cases h
    next k hk => cases h; exact .inl ⟨J, k, hJ, hk, rfl⟩
  next hn =>
    cases h
    by_cases hq : s.queue = []
    · exact .inr (.inr ⟨hn, hq, by simp [hq]⟩)
    · exact .inr (.inl ⟨hn, hq, by simp [hq]⟩)

/-- Step 5: the three stage loads, and the queue's head into decode (R175). -/
theorem loadStep_ok {t : Transit} {s s' : State} (h : loadStep t s = .ok s') :
    ∃ w m e, load .writeback t.outM s = .ok w ∧ load .memory t.outE w = .ok m ∧ load .execute t.outD m = .ok e ∧
      load .decode ((e.queue.head?.map QEntry.toSlot).join) { e with queue := e.queue.tail } = .ok s' := by
  obtain ⟨w, hw, h⟩ := bind_eq_ok h
  obtain ⟨m, hm, h⟩ := bind_eq_ok h
  obtain ⟨e, he, h⟩ := bind_eq_ok h
  exact ⟨w, m, e, hw, hm, he, h⟩

/-- The five steps (R177). -/
theorem cycleTry_ok {found : Option Instr} {s s' : State} (h : cycleTry found s = .ok s') :
    ∃ d q l, drainStep (fetchStep found s).1 (fetchStep found s).2 = .ok d ∧
      issueStep d.1 (retireStep d.1.outW d.2) = .ok q ∧ loadStep d.1 q = .ok l ∧ s' = { l with started := true } := by
  obtain ⟨d, hd, h⟩ := bind_eq_ok h
  obtain ⟨q, hq, h⟩ := bind_eq_ok h
  obtain ⟨l, hl, h⟩ := bind_eq_ok h
  cases h
  exact ⟨d, q, l, hd, hq, hl, rfl⟩

/-- A cycle does nothing when FAULTED, completes, or leaves everything but the fault code as it was (R170, R177, R289). -/
theorem cycleWith_cases (found : Option Instr) (s : State) :
    (s.fault ≠ 0#4 ∧ cycleWith found s = s) ∨
    (s.fault = 0#4 ∧ ∃ s', cycleTry found s = .ok s' ∧ cycleWith found s = s') ∨
    (s.fault = 0#4 ∧ ∃ k, cycleTry found s = .error k ∧ cycleWith found s = { s with fault := k.code }) := by
  unfold cycleWith
  by_cases hf : s.fault = 0#4
  · rw [if_pos hf]
    cases h : cycleTry found s with
    | ok s' => exact .inr (.inl ⟨hf, s', rfl, rfl⟩)
    | error k => exact .inr (.inr ⟨hf, k, rfl, by simp [enterFaulted, hf]⟩)
  · rw [if_neg hf]
    exact .inl ⟨hf, rfl⟩

/-- The meaning of a program instruction is the cycle that fetches it (R171). -/
theorem exec_program {i : Instr} (hi : i.isProgram = true) (s : State) : exec i s = .next (cycleWith (some i) s) := by
  cases i <;> first | rfl | cases hi

/-- No arm of `exec` ends in a fault or a refusal. -/
theorem exec_next (i : Instr) (s : State) : ∃ t, exec i s = .next t := by
  cases i <;> exact ⟨_, rfl⟩

/-- What a step can do when it answers a next state: a cycle of a RUN, the end of a RUN in the FAULTED state, a host command, a
reserved word, a new PSC, or nothing when the host asks nothing (R250). -/
theorem step_next {s t : State} (h : step s = .next t) :
    (∃ n i, s.runLeft = n + 1 ∧ s.fault = 0#4 ∧ fetchAt s = some i ∧ exec i { s with runLeft := n } = .next t) ∨
    (∃ n, s.runLeft = n + 1 ∧ s.fault = 0#4 ∧ fetchAt s = none ∧ t = cycleWith none { s with runLeft := n }) ∨
    (s.runLeft ≠ 0 ∧ s.fault ≠ 0#4 ∧ t = stopRun s) ∨
    (s.runLeft = 0 ∧ s.inbox = [] ∧ t = s) ∨
    (s.runLeft = 0 ∧ ∃ w later c, s.inbox = .command w :: later ∧ decodeCommand w = .ok c ∧
      exec c { s with inbox := later } = .next t) ∨
    (s.runLeft = 0 ∧ ∃ w later e, s.inbox = .command w :: later ∧ decodeCommand w = .error e ∧
      t = reservedCommand { s with inbox := later }) ∨
    (s.runLeft = 0 ∧ ∃ a later u, s.inbox = .construct a :: later ∧ construct a = .ok u ∧ t = { u with inbox := later }) := by
  unfold step at h
  split at h
  next hr =>
    unfold hostStep at h
    split at h
    next hi => cases h; exact .inr (.inr (.inr (.inl ⟨hr, hi, rfl⟩)))
    next a later hi =>
      unfold takeConstruct at h
      split at h
      next u hu => cases h; exact .inr (.inr (.inr (.inr (.inr (.inr ⟨hr, a, later, u, hi, hu, rfl⟩)))))
      · cases h
    next w later hi =>
      split at h
      next c hc => exact .inr (.inr (.inr (.inr (.inl ⟨hr, w, later, c, hi, hc, h⟩))))
      next e he => cases h; exact .inr (.inr (.inr (.inr (.inr (.inl ⟨hr, w, later, e, hi, he, rfl⟩)))))
  next n hr =>
    split at h
    next hf =>
      unfold runStep at h
      split at h
      next i hi => exact .inl ⟨n, i, hr, hf, hi, h⟩
      next hn => cases h; exact .inr (.inl ⟨n, hr, hf, hn, rfl⟩)
    next hf => cases h; exact .inr (.inr (.inl ⟨by omega, hf, rfl⟩))

/-- A step faults exactly when the host's next input is a CONSTRUCT that is refused (R251). -/
theorem step_fault {s : State} {r : Fault} (h : step s = .fault r) :
    s.runLeft = 0 ∧ ∃ a later, s.inbox = .construct a :: later ∧ construct a = .error r := by
  unfold step at h
  split at h
  next hr =>
    unfold hostStep at h
    split at h
    · cases h
    next a later hi =>
      unfold takeConstruct at h
      split at h
      · cases h
      next f hf => cases h; exact ⟨hr, a, later, hi, hf⟩
    next w later hi =>
      split at h
      next c _ => obtain ⟨t, ht⟩ := exec_next c { s with inbox := later }; rw [ht] at h; cases h
      · cases h
  next n hr =>
    split at h
    · unfold runStep at h
      split at h
      next i _ => obtain ⟨t, ht⟩ := exec_next i { s with runLeft := n }; rw [ht] at h; cases h
      · cases h
    · cases h

end Sys2Proof.Machine
end

