-- ==== Sys2Proof/Laws/PerInstr.lean ====
section
/-! SUPPORT. Facts of every instruction as syntax, one lemma per constructor. -/

namespace Sys2Proof.Laws.MatchesRow

/-- An instruction's word satisfies MATCH and MASK of its row of the opcode table (R84, R92, R94). -/
def Statement (i : Instr) : Prop := i.row.accepts (encode i) = true

/-- The fixed bits of an R-format word do not depend on its fields (R81). -/
theorem rFormat (rs rt rd : RegId) (f : BitVec 6) :
    (0x00#6 ++ rs ++ rt ++ rd ++ 0x00#5 ++ f : Word) &&& 0xFC0007FF#32 = 0#26 ++ f := by
  apply BitVec.eq_of_getLsbD_eq
  intro i hi
  simp only [BitVec.getLsbD_and, BitVec.getLsbD_append]
  interval_cases i <;> simp

/-- The fixed bits of an I-format word (R82). -/
theorem iFormat (op : BitVec 6) (rs rt : RegId) (imm : BitVec 16) :
    (op ++ rs ++ rt ++ imm : Word) &&& 0xFC000000#32 = op ++ 0#26 := by
  apply BitVec.eq_of_getLsbD_eq
  intro i hi
  simp only [BitVec.getLsbD_and, BitVec.getLsbD_append]
  interval_cases i <;> simp

theorem add (rd rs rt : RegId) : Statement (.add rd rs rt) := by
  simp only [Statement, EncodingRow.accepts, Instr.row, Kind.row, encode, rFormat]
  rfl

theorem sub (rd rs rt : RegId) : Statement (.sub rd rs rt) := by
  simp only [Statement, EncodingRow.accepts, Instr.row, Kind.row, encode, rFormat]
  rfl

theorem andi (rt rs : RegId) (imm16 : BitVec 16) : Statement (.andi rt rs imm16) := by
  simp only [Statement, EncodingRow.accepts, Instr.row, Kind.row, encode, iFormat]
  rfl

theorem lw (rt rs : RegId) (off16 : BitVec 16) : Statement (.lw rt rs off16) := by
  simp only [Statement, EncodingRow.accepts, Instr.row, Kind.row, encode, iFormat]
  rfl

theorem sw (rt rs : RegId) (off16 : BitVec 16) : Statement (.sw rt rs off16) := by
  simp only [Statement, EncodingRow.accepts, Instr.row, Kind.row, encode, iFormat]
  rfl

theorem j (index26 : BitVec 26) : Statement (.j index26) := by
  have h : (0x02#6 ++ index26 : Word) &&& 0xFC000000#32 = 0x02#6 ++ 0#26 := by
    apply BitVec.eq_of_getLsbD_eq
    intro i hi
    simp only [BitVec.getLsbD_and, BitVec.getLsbD_append]
    interval_cases i <;> simp
  simp only [Statement, EncodingRow.accepts, Instr.row, Kind.row, encode, h]
  rfl

theorem nop : Statement .nop := rfl

theorem run (n : BitVec 24) : Statement (.run n) := by
  have h : (n ++ 0x01#8 : Word) &&& 0x000000FF#32 = 0x00000001#32 := by
    apply BitVec.eq_of_getLsbD_eq
    intro i hi
    simp only [BitVec.getLsbD_and, BitVec.getLsbD_append]
    interval_cases i <;> simp
  simp only [Statement, EncodingRow.accepts, Instr.row, runRow, encode, h]
  rfl

theorem setupFwd (source target : Stage) : Statement (.setupFwd source target) := by
  cases source <;> cases target <;> rfl

theorem flushAll : Statement .flushAll := rfl

theorem read (index : BitVec 8) : Statement (.read index) := by
  have h : (0x0000#16 ++ index ++ 0x04#8 : Word) &&& 0xFFFF00FF#32 = 0x00000004#32 := by
    apply BitVec.eq_of_getLsbD_eq
    intro i hi
    simp only [BitVec.getLsbD_and, BitVec.getLsbD_append]
    interval_cases i <;> simp
  simp only [Statement, EncodingRow.accepts, Instr.row, readRow, encode, h]
  rfl

end Sys2Proof.Laws.MatchesRow
end

