-- ==== Sys2Proof/Tests/Slice0.lean ====
section
/-! SUPPORT. Tests: the checks of WellFormed refuse, words written out from the encodings of 30_encoding.md decode, one step per
instruction (expected values from 95_test_vectors.md), and a witness for the hypotheses of each statement. -/

namespace Sys2Proof.Tests

open Sys2Proof Sys2Proof.Machine

/-! ### The checks of WellFormed refuse -/

theorem test_refuses_latency_zero : latencyOk 0 = false ∧ latencyOk 1 = true := by decide
theorem test_refuses_latency_256 : latencyOk 256 = false ∧ latencyOk 255 = true := by decide
theorem test_refuses_each_latency : Latencies.wf ⟨0, 1, 1, 1⟩ = false ∧ Latencies.wf ⟨1, 256, 1, 1⟩ = false ∧
    Latencies.wf ⟨1, 1, 0, 1⟩ = false ∧ Latencies.wf ⟨1, 1, 1, 256⟩ = false := by decide
theorem test_refuses_each_frequency_zero : Frequencies.wf ⟨0#32, 1#32, 1#32, 1#32⟩ = false ∧
    Frequencies.wf ⟨1#32, 0#32, 1#32, 1#32⟩ = false ∧ Frequencies.wf ⟨1#32, 1#32, 0#32, 1#32⟩ = false ∧
    Frequencies.wf ⟨1#32, 1#32, 1#32, 0#32⟩ = false := by decide
theorem test_refuses_long_program : programLengthOk 0x30000001 = false ∧ programLengthOk 0x30000000 = true := by decide
theorem test_refuses_command_in_program : programWf [.add 1#5 2#5 3#5, .nop] = false := by decide
theorem test_kind_is_no_command : Instr.isCommand (.add 1#5 2#5 3#5) = false ∧ Instr.isProgram .flushAll = false := by decide

/-! ### Words written out bit by bit from R81 to R83, R91 and the fixed fields of R92, R94: opcode, rs, rt, ... in that order -/

theorem test_decode_add :
    decodeAs .add 0b000000_00010_00011_00001_00000_100000#32 = .ok (.add 1#5 2#5 3#5) := by decide
theorem test_decode_sub :
    decodeAs .sub 0b000000_00011_00010_00100_00000_100010#32 = .ok (.sub 4#5 3#5 2#5) := by decide
theorem test_decode_andi :
    decodeAs .andi 0b001100_00010_00001_0000000011111111#32 = .ok (.andi 1#5 2#5 0x00FF#16) := by decide
theorem test_decode_lw :
    decodeAs .lw 0b100011_00010_00001_1111111111111100#32 = .ok (.lw 1#5 2#5 0xFFFC#16) := by decide
theorem test_decode_sw :
    decodeAs .sw 0b101011_00010_00011_1111111111111000#32 = .ok (.sw 3#5 2#5 0xFFF8#16) := by decide
theorem test_decode_j :
    decodeAs .j 0b000010_00000000000000000000000100#32 = .ok (.j 4#26) := by decide
theorem test_decode_nop : decodeCommand 0b0000000000000000_00000000_00_00_0000#32 = .ok .nop := by decide
theorem test_decode_run :
    decodeCommand 0b0001001000110100_01010110_00_00_0001#32 = .ok (.run 0x123456#24) := by decide
theorem test_decode_setup_fwd :
    decodeCommand 0b0000000000000000_00000000_01_10_0010#32 = .ok (.setupFwd .memory .execute) ∧
    decodeCommand 0b0000000000000000_00000000_01_11_0010#32 = .ok (.setupFwd .writeback .execute) ∧
    decodeCommand 0b0000000000000000_00000000_10_00_0010#32 = .ok (.setupFwd .decode .memory) := by decide
theorem test_decode_flush_all : decodeCommand 0b0000000000000000_00000000_00_00_0011#32 = .ok .flushAll := by decide
theorem test_decode_read :
    decodeCommand 0b0000000000000000_00100001_00_00_0100#32 = .ok (.read 0x21#8) := by decide

/-- E10 to E15: words that do not match their claimed kind. -/
theorem test_decode_refuses_other_kinds :
    decodeAs .add 0x00430860#32 = .error (.malformedEncoding .add) ∧
    decodeAs .add 0x00430822#32 = .error (.malformedEncoding .add) ∧
    decodeAs .sub 0x00430820#32 = .error (.malformedEncoding .sub) ∧
    decodeAs .lw 0xAC030010#32 = .error (.malformedEncoding .lw) ∧
    decodeAs .j 0x0C000004#32 = .error (.malformedEncoding .j) ∧
    decodeAs .andi 0x34410001#32 = .error (.malformedEncoding .andi) := by decide

/-- H14 to H19: reserved command words. -/
theorem test_decode_refuses_reserved_commands :
    decodeCommand 0x00000005#32 = .error .illegalCommand ∧
    decodeCommand 0x0000000F#32 = .error .illegalCommand ∧
    decodeCommand 0x00000010#32 = .error .illegalCommand ∧
    decodeCommand 0x00000103#32 = .error .illegalCommand ∧
    decodeCommand 0x00010004#32 = .error .illegalCommand ∧
    decodeCommand 0x00000152#32 = .error .illegalCommand := by decide

/-- The table word of every row, and a word of no row (log 8). -/
theorem test_decode_table_words :
    decodeTableWord 32 0x00430820 = some (.add 1#5 2#5 3#5) ∧ decodeTableWord 32 0x00622022 = some (.sub 4#5 3#5 2#5) ∧
    decodeTableWord 32 0x304100FF = some (.andi 1#5 2#5 0xFF#16) ∧ decodeTableWord 32 0x8C030010 = some (.lw 3#5 0#5 0x10#16) ∧
    decodeTableWord 32 0xAC020010 = some (.sw 2#5 0#5 0x10#16) ∧ decodeTableWord 32 0x08000004 = some (.j 4#26) ∧
    decodeTableWord 32 0x00000000 = some .nop ∧ decodeTableWord 32 0x00001E01 = some (.run 30#24) ∧
    decodeTableWord 32 0x00000052 = some (.setupFwd .execute .execute) ∧ decodeTableWord 32 0x00000003 = some .flushAll ∧
    decodeTableWord 32 0x00002104 = some (.read 0x21#8) ∧ decodeTableWord 32 0x00000005 = none := by decide

/-- R89's assembler on a jump: E6, and a target outside the jump's region. -/
theorem test_assemble_jump :
    assembleJump 0x40000004#32 0x40000010#32 = some (.j 4#26) ∧ assembleJump 0x40000004#32 0x50000000#32 = none := by decide

/-! ### Small machines -/

/-- Register values, the others 0. -/
def regsWith (l : List (RegId × Word)) : Vector Word 32 :=
  l.foldl (fun v p => v.set p.1.toNat p.2 p.1.isLt) (Vector.replicate 32 0#32)

/-- A machine of one slot a stage, nothing in flight. -/
def small (prog : List Instr) (regs : List (RegId × Word)) (mem : Memory) : State :=
  State.initial ⟨1, 1, 1, 1⟩ ⟨100#32, 50#32, 200#32, 75#32⟩ prog (regsWith regs) mem

/-- A machine of two slots a stage, nothing in flight. -/
def double (prog : List Instr) (regs : List (RegId × Word)) (mem : Memory) : State :=
  State.initial ⟨2, 2, 2, 2⟩ ⟨100#32, 50#32, 200#32, 75#32⟩ prog (regsWith regs) mem

/-- A record of an instruction at an address. -/
def at_ (i : Instr) (addr : Word) : InFlight := InFlight.fresh i addr

/-- The next state of an outcome. -/
def next? (o : Host.Outcome State Fault Refusal) : Option State :=
  match o with
  | .next s => some s
  | .fault _ => none
  | .refused _ => none

/-! ### One step per instruction. A kind's test puts its record in a stage and runs one cycle. -/

/-- A2: the sum wraps and does not trap. -/
theorem test_add_wraps :
    ((cycleWith none { small [] [(2#5, 0xFFFFFFFF#32), (3#5, 1#32)] [] with
      slotE := [some { at_ (.add 1#5 2#5 3#5) 0#32 with res := 5#32 }] }).slotM) = [some (at_ (.add 1#5 2#5 3#5) 0#32)] := by decide

/-- A11: x[0] is ordinary; the trace value is the register after the write. -/
theorem test_add_writes_r0 :
    let t := cycleWith none { small [] [] [] with
      slotW := [some { at_ (.add 0#5 2#5 3#5) 0x40000000#32 with res := 12#32 }]
      busy := (Vector.replicate 32 0).set 0 1 }
    t.x 0#5 = 12#32 ∧ t.busyOf 0#5 = 0 ∧ t.committed = 1#64 ∧ t.stalls = 0#64 ∧
      t.trace = [⟨"add", 0x40000000#32, some 12⟩] := by decide

/-- A5, A6: minuend rs, subtrahend rt. -/
theorem test_sub_operand_order :
    ((cycleWith none { small [] [(2#5, 0x80000000#32), (3#5, 1#32)] [] with slotE := [some (at_ (.sub 1#5 2#5 3#5) 0#32)] }).slotM)
      = [some { at_ (.sub 1#5 2#5 3#5) 0#32 with res := 0x7FFFFFFF#32 }] := by decide

/-- A9: the immediate is zero-extended. -/
theorem test_andi_zero_extends :
    ((cycleWith none { small [] [(2#5, 0xFFFFFFFF#32)] [] with slotE := [some (at_ (.andi 1#5 2#5 0x8000#16) 0#32)] }).slotM)
      = [some { at_ (.andi 1#5 2#5 0x8000#16) 0#32 with res := 0x00008000#32 }] := by decide

/-- L2: the address wraps; L1: the offset is signed. -/
theorem test_lw_address :
    ((cycleWith none { small [] [(2#5, 0xFFFFFFFC#32)] [] with slotE := [some (at_ (.lw 1#5 2#5 8#16) 0#32)] }).slotM)
      = [some { at_ (.lw 1#5 2#5 8#16) 0#32 with ea := 4#32 }] ∧
    ((cycleWith none { small [] [(2#5, 0x104#32)] [] with slotE := [some (at_ (.lw 1#5 2#5 0xFFFC#16) 0#32)] }).slotM)
      = [some { at_ (.lw 1#5 2#5 0xFFFC#16) 0#32 with ea := 0x100#32 }] := by decide

/-- L1's read, and L6's fault with its rollback: the older add's write in the same cycle is discarded. -/
theorem test_lw_memory :
    ((cycleWith none { small [] [] [(0x100, 9#32)] with
        slotM := [some { at_ (.lw 1#5 2#5 0#16) 0#32 with ea := 0x100#32 }] }).slotW)
      = [some { at_ (.lw 1#5 2#5 0#16) 0#32 with ea := 0x100#32, res := 9#32 }] ∧
    (let s := { small [] [] [] with
        slotM := [some { at_ (.lw 4#5 0#5 2#16) 0#32 with ea := 2#32 }]
        slotW := [some { at_ (.add 1#5 2#5 3#5) 0#32 with res := 12#32 }] }
     cycleWith none s = { s with fault := 7#4 }) := by decide

/-- L4: base and data register, negative offset. -/
theorem test_sw_address_and_data :
    ((cycleWith none { small [] [(3#5, 0x55#32)] [] with slotE := [some (at_ (.sw 3#5 2#5 0xFFF8#16) 0#32)] }).slotM)
      = [some { at_ (.sw 3#5 2#5 0xFFF8#16) 0#32 with ea := 0xFFFFFFF8#32, sdata := 0x55#32 }] := by decide

/-- The store writes its own address only, keeping the rising order. -/
theorem test_sw_memory :
    ((cycleWith none { small [] [] [(0x8, 1#32), (0x20, 2#32)] with
        slotM := [some { at_ (.sw 3#5 2#5 0#16) 0#32 with ea := 0x10#32, sdata := 7#32 }] }).dmem)
      = [(0x8, 1#32), (0x10, 7#32), (0x20, 2#32)] := by decide

/-- X1, cycle 4: the jump sends `pc` to 0x40000010, kills the add in decode and this cycle's fetch, and moves on to memory. -/
theorem test_j_redirects :
    let t := cycleWith (some (.add 5#5 2#5 3#5)) { small [] [] [] with
      pc := 0x4000000C#32, slotD := [some (at_ (.add 4#5 2#5 3#5) 0x40000008#32)], slotE := [some (at_ (.j 4#26) 0x40000004#32)]
      busy := (Vector.replicate 32 0).set 4 1 }
    t.pc = 0x40000010#32 ∧ t.slotD = [none] ∧ t.slotE = [none] ∧ t.slotM = [some (at_ (.j 4#26) 0x40000004#32)] ∧
      t.busyOf 4#5 = 0 ∧ t.busyOf 5#5 = 0 ∧ t.queue = [] := by decide

/-- J2 to J4: the upper bits come from the jump's address + 4. -/
theorem test_jump_targets :
    jumpTarget 0x4FFFFFFC#32 0#26 = 0x50000000#32 ∧ jumpTarget 0x4FFFFFF8#32 0x3FFFFFF#26 = 0x4FFFFFFC#32 ∧
    jumpTarget 0xFFFFFFFC#32 1#26 = 0x00000004#32 := by decide

/-- H1. -/
theorem test_nop_changes_nothing : next? (exec .nop { State.reset with fault := 7#4 }) = some { State.reset with fault := 7#4 } := by
  decide

/-- H2: thirty cycles are due; nothing is due when FAULTED. -/
theorem test_run_makes_cycles_due :
    (next? (exec (.run 30#24) State.reset)).map State.runLeft = some 30 ∧
    (next? (exec (.run 30#24) { State.reset with fault := 7#4 })).map State.runLeft = some 0 := by decide

/-- H6, H7: bits 5 and 9. -/
theorem test_setup_fwd_sets_bits :
    (next? (exec (.setupFwd .execute .execute) State.reset)).map State.fwdCfg = some 0x0020#16 ∧
    (next? (exec (.setupFwd .memory .execute) { State.reset with fwdCfg := 0x0020#16 })).map State.fwdCfg = some 0x0220#16 := by decide

/-- H8, and R252's order of checks: after the first cycle the fault is LateConfiguration, whatever the edge. -/
theorem test_setup_fwd_faults :
    (next? (exec (.setupFwd .writeback .execute) State.reset)).map State.fault = some 5#4 ∧
    (next? (exec (.setupFwd .writeback .execute) { State.reset with started := true })).map State.fault = some 4#4 := by decide

/-- S5: slots, queue and busy counts go; `pc` and the counters stay. -/
theorem test_flush_all :
    next? (exec .flushAll { small [] [] [] with
      pc := 0x40000008#32, stalls := 3#64, hazardBubbles := 3#64, slotE := [some (at_ (.add 1#5 2#5 3#5) 0x40000000#32)]
      queue := [.bubble, .held (at_ (.add 4#5 1#5 5#5) 0x40000004#32)], busy := ((Vector.replicate 32 0).set 1 1).set 4 1 })
    = some { small [] [] [] with pc := 0x40000008#32, stalls := 3#64, hazardBubbles := 3#64 } := by decide

/-- C3: LAT_CFG and EFF_FREQ. -/
theorem test_read_configuration :
    (next? (exec (.read 0x09#8) { small [] [] [] with lat := ⟨2, 1, 3, 1⟩ })).map State.responses = some [0x01030102#32] ∧
    (next? (exec (.read 0x0A#8) (small [] [] []))).map State.responses = some [50#32] := by decide

/-- L6's STATUS. -/
theorem test_read_status :
    (next? (exec (.read 0x00#8) { small [] [] [] with
      started := true, fault := 7#4, slotD := [some (at_ (.lw 4#5 0#5 2#16) 0#32)] })).map State.responses
    = some [0x00000076#32] := by decide

/-- A word placed where the next step fetches is what that step runs. -/
theorem test_fetch_word_runs :
    (next? (step (State.reset.withFetchWord 32 0x00430820))).map State.slotD
      = some [some (at_ (.add 1#5 2#5 3#5) 0x40000000#32)] ∧
    (next? (step (State.reset.withFetchWord 32 0x00000052))).map State.fwdCfg = some 0x0020#16 ∧
    (next? (step (State.reset.withFetchWord 32 0x00000005))).map State.fault = some 6#4 := by decide

/-! ### Stall counts: the tables of 95_test_vectors.md section 6 at latencies 1 and (1, 3, 2, 1), and two producers -/

theorem test_single_producer_table :
    searchStall ⟨1, 1, 1, 1⟩ 0x0020#16 [(some .ex, 1)] = .ok 0 ∧ searchStall ⟨1, 1, 1, 1⟩ 0x0200#16 [(some .ex, 1)] = .ok 3 ∧
    searchStall ⟨1, 1, 1, 1⟩ 0x0220#16 [(some .mem, 1)] = .ok 1 ∧ searchStall ⟨1, 3, 2, 1⟩ 0x0020#16 [(some .ex, 3)] = .ok 0 ∧
    searchStall ⟨1, 3, 2, 1⟩ 0x0020#16 [(some .ex, 4)] = .ok 3 ∧ searchStall ⟨1, 3, 2, 1⟩ 0x0200#16 [(some .mem, 5)] = .ok 0 ∧
    searchStall ⟨1, 3, 2, 1⟩ 0x0220#16 [(some .wb, 1)] = .ok 6 := by decide

theorem test_two_producers :
    searchStall ⟨1, 1, 1, 1⟩ 0x0020#16 [(some .ex, 1), (some .ex, 2)] = .ok 3 ∧
    searchStall ⟨1, 1, 1, 1⟩ 0x0020#16 [(some .ex, 2), (some .ex, 3)] = .ok 2 := by decide

/-! ### Construction -/

/-- CONSTRUCT's arguments with one (kind, word) pair. -/
def oneWord (k : Kind) (w : Word) (lat : Latencies) : ConstructArgs :=
  ⟨[(k, w)], lat, ⟨100#32, 50#32, 200#32, 75#32⟩, Vector.replicate 32 0#32, [(0x10#32, 7#32), (0x10#32, 9#32)]⟩

/-- What CONSTRUCT reports: 0, or the code of its refusal. -/
def reported (a : ConstructArgs) : BitVec 4 :=
  match construct a with
  | .ok s => s.constructResult
  | .error f => f.code

/-- E10, E17, E18: the codes of a refused CONSTRUCT, and 0. -/
theorem test_construct_reports :
    reported (oneWord .add 0x00430820#32 ⟨1, 1, 1, 1⟩) = 0#4 ∧ reported (oneWord .add 0x00430860#32 ⟨1, 1, 1, 1⟩) = 2#4 ∧
    reported (oneWord .add 0x00430820#32 ⟨1, 0, 1, 1⟩) = 8#4 ∧ reported (oneWord .add 0x00430860#32 ⟨1, 0, 1, 1⟩) = 2#4 := by decide

/-! ### Witnesses: for each statement with hypotheses, a concrete machine and operands that meet all of them -/

/-- Nothing in flight; an add at BASE, and 9 at 0x100. -/
def calm : State := small [.add 1#5 2#5 3#5] [(2#5, 7#32), (3#5, 5#32)] [(0x100, 9#32)]

theorem calm_sized : calm.Sized := ⟨by decide, rfl, rfl, rfl, rfl⟩
theorem calm_drained : calm.Drained := ⟨calm_sized, rfl, by decide, rfl⟩

/-- A store about to leave memory and an add about to retire, at latencies 2. -/
def laden : State :=
  { double [.add 1#5 2#5 3#5] [] [(0x20, 2#32)] with
    slotM := [none, some { at_ (.sw 3#5 2#5 0#16) 0x40000004#32 with ea := 0x10#32, sdata := 7#32 }]
    slotW := [none, some { at_ (.add 1#5 2#5 3#5) 0x40000000#32 with res := 12#32 }]
    busy := (Vector.replicate 32 0).set 1 1 }

theorem laden_sized : laden.Sized := ⟨by decide, rfl, rfl, rfl, rfl⟩

/-- No record of `laden` that stands in execute is a jump: there is none there. -/
theorem laden_no_jump : ∀ I index26, some I ∈ laden.slotE → I.instr ≠ .j index26 := by
  intro I index26 h
  have he : laden.slotE = [none, none] := rfl
  simp [he] at h

/-- Two jumps in execute, with an add younger than both in decode, at latencies 2. -/
def jumpers : State :=
  { double [] [] [] with
    pc := 0x40000010#32
    slotD := [none, some (at_ (.add 4#5 2#5 3#5) 0x4000000C#32)]
    slotE := [some (at_ (.j 9#26) 0x40000008#32), some (at_ (.j 4#26) 0x40000004#32)]
    busy := (Vector.replicate 32 0).set 4 1 }

theorem jumpers_sized : jumpers.Sized := ⟨by decide, rfl, rfl, rfl, rfl⟩

/-- A misaligned lw in memory. -/
def misaligned : State :=
  { small [] [] [] with slotM := [some { at_ (.lw 4#5 0#5 2#16) 0x40000000#32 with ea := 2#32 }] }

theorem misaligned_sized : misaligned.Sized := ⟨by decide, rfl, rfl, rfl, rfl⟩

/-- HOLD(j, add) behind a record in memory, at latencies 2. -/
def holding (j : Nat) : State :=
  { double [] [] [] with
    slotM := [none, some (at_ (.lw 1#5 0#5 0#16) 0x40000000#32)]
    queue := holdQueue j (at_ (.add 4#5 1#5 1#5) 0x40000004#32) }

theorem holding_sized (j : Nat) : (holding j).Sized := ⟨rfl, rfl, rfl, rfl, rfl⟩

/-- One record of each kind that computes in execute, in an execute stage of five slots. -/
def executing : State :=
  { State.initial ⟨1, 5, 1, 1⟩ ⟨1#32, 1#32, 1#32, 1#32⟩ [] (regsWith [(2#5, 7#32), (3#5, 5#32)]) [] with
    slotE := [some (at_ (.add 1#5 2#5 3#5) 0x40000010#32), some (at_ (.sub 1#5 2#5 3#5) 0x4000000C#32)
              , some (at_ (.andi 1#5 2#5 5#16) 0x40000008#32), some (at_ (.lw 1#5 2#5 1#16) 0x40000004#32)
              , some (at_ (.sw 1#5 2#5 1#16) 0x40000000#32)] }

theorem executing_sized : executing.Sized := ⟨by decide, rfl, rfl, rfl, rfl⟩

/-- A younger store and an older load in memory, and two writers of r1 in writeback, at latencies 2. -/
def crowded : State :=
  { double [] [] [(0x10, 5#32)] with
    slotM := [some { at_ (.sw 2#5 0#5 0x10#16) 0x4000000C#32 with ea := 0x10#32, sdata := 22#32 },
              some { at_ (.lw 1#5 0#5 0x10#16) 0x40000008#32 with ea := 0x10#32 }]
    slotW := [some { at_ (.add 1#5 2#5 3#5) 0x40000004#32 with res := 4#32 },
              some { at_ (.add 1#5 2#5 3#5) 0x40000000#32 with res := 3#32 }] }

theorem crowded_sized : crowded.Sized := ⟨by decide, rfl, rfl, rfl, rfl⟩

/-- The add of a one-instruction program in the exit slot of writeback. -/
def retiring : State :=
  { small [.add 1#5 2#5 3#5] [(2#5, 7#32), (3#5, 5#32)] [(0x100, 9#32)] with
    pc := 0x40000004#32, started := true, stalls := 4#64, runLeft := 2
    slotW := [some { at_ (.add 1#5 2#5 3#5) 0x40000000#32 with res := 12#32 }]
    busy := (Vector.replicate 32 0).set 1 1 }

theorem retiring_inv : retiring.Inv where
  sized := ⟨by decide, rfl, rfl, rfl, rfl⟩
  program := by decide
  frequencies := by decide
  queueShaped := .inl rfl
  holdBacked := by
    intro j I h
    have hq : retiring.queue = [] := rfl
    rw [hq] at h
    exact absurd (congrArg List.length h) (by simp [holdQueue])
  busyExact := by unfold State.BusyExact; decide
  fromProgram := by unfold State.FromProgram; decide
  fwdCfg := by decide
  pcAligned := by decide
  memory := by decide
  code := by decide
  trace := by decide
  constructed := rfl

theorem witness_ProgramWordsRoundTrip :
    (Instr.add 31#5 2#5 0#5).kind? = some .add ∧ (Instr.sub 4#5 3#5 2#5).kind? = some .sub ∧
    (Instr.andi 1#5 2#5 0xFFFF#16).kind? = some .andi ∧ (Instr.lw 1#5 2#5 0x8000#16).kind? = some .lw ∧
    (Instr.sw 3#5 2#5 0#16).kind? = some .sw ∧ (Instr.j 0x3FFFFFF#26).kind? = some .j := by decide

theorem witness_CommandWordsRoundTrip :
    Instr.isCommand .nop = true ∧ Instr.isCommand (.run 0xFFFFFF#24) = true ∧
    Instr.isCommand (.setupFwd .writeback .memory) = true ∧ Instr.isCommand .flushAll = true ∧
    Instr.isCommand (.read 0xFF#8) = true := by decide

theorem witness_AcceptedWordsReencode :
    decodeAs .add 0x00430820#32 = .ok (.add 1#5 2#5 3#5) ∧ decodeCommand 0x00002104#32 = .ok (.read 0x21#8) := by decide

theorem witness_RowsOfOneSpaceAreDisjoint :
    Instr.isProgram (.add 1#5 2#5 3#5) = Instr.isProgram (.add 4#5 5#5 6#5) ∧
    (Instr.row (.add 1#5 2#5 3#5)).accepts 0x00430820#32 = true ∧
    (Instr.row (.add 4#5 5#5 6#5)).accepts 0x00430820#32 = true ∧
    Instr.isProgram (.run 1#24) = Instr.isProgram (.run 2#24) ∧
    (Instr.row (.run 1#24)).accepts 0x00001E01#32 = true ∧ (Instr.row (.run 2#24)).accepts 0x00001E01#32 = true := by decide

/-- Arguments that CONSTRUCT accepts, with latencies at both ends of their range. -/
def args : ConstructArgs := oneWord .add 0x00430820#32 ⟨1, 255, 1, 1⟩

theorem witness_ConstructGivesResetValues :
    (∀ p ∈ args.program, ∃ i, decodeAs p.1 p.2 = .ok i) ∧
    (∀ n ∈ [args.lat.d, args.lat.e, args.lat.m, args.lat.w], 1 ≤ n ∧ n ≤ 255) ∧
    (∀ f ∈ [args.freq.d, args.freq.e, args.freq.m, args.freq.w], f ≠ 0#32) ∧ args.program.length ≤ 0x30000000 := by
  refine ⟨?_, by simp [args, oneWord], by simp [args, oneWord], by simp [args, oneWord]⟩
  intro p hp
  cases List.mem_singleton.mp hp
  exact ⟨.add 1#5 2#5 3#5, by decide⟩

/-- What CONSTRUCT gives for `oneWord` of an add at latencies 1. -/
def constructed : State :=
  State.initial ⟨1, 1, 1, 1⟩ ⟨100#32, 50#32, 200#32, 75#32⟩ [.add 1#5 2#5 3#5] (Vector.replicate 32 0#32) [(0x10, 9#32)]

theorem witness_ConstructPlacesDecodedProgram :
    construct (oneWord .add 0x00430820#32 ⟨1, 1, 1, 1⟩) = .ok constructed ∧
    (oneWord .add 0x00430820#32 ⟨1, 1, 1, 1⟩).program[0]? = some (.add, 0x00430820#32) ∧
    ¬ ∃ n, n < (oneWord .add 0x00430820#32 ⟨1, 1, 1, 1⟩).program.length ∧
      0x40000004#32 = 0x40000000#32 + BitVec.ofNat 32 (4 * n) := by
  refine ⟨by decide, rfl, ?_⟩
  rintro ⟨n, hn, h⟩
  have h0 : n = 0 := by simpa [oneWord] using hn
  subst h0
  exact absurd h (by decide)

theorem witness_OperandsOfTheKinds :
    describe (.sw 2#5 1#5 4#16) = some ⟨.sw, encode (.sw 2#5 1#5 4#16), [1#5, 2#5], [], .mem, .iFormat 1#5 2#5 4#16⟩ := by decide

/-- CONSTRUCT waits, with a RUN(1) behind it. -/
def awaiting (a : ConstructArgs) : State := { calm with inbox := [.construct a, .command 0x00000101#32] }

theorem witness_StepTakesConstruct :
    (awaiting args).runLeft = 0 ∧ (awaiting args).inbox = .construct args :: [.command 0x00000101#32] ∧
    construct (oneWord .add 0x00430820#32 ⟨1, 1, 1, 1⟩) = .ok constructed ∧
    construct (oneWord .add 0x00430860#32 ⟨1, 0, 1, 1⟩) = .error .malformedEncoding ∧
    construct (oneWord .add 0x00430820#32 ⟨1, 1, 1, 256⟩) = .error .badConfiguration :=
  ⟨rfl, rfl, by decide, by decide, by decide⟩

theorem witness_StepRunsDecodedInstruction :
    ({ calm with runLeft := 2 } : State).runLeft = 1 + 1 ∧ calm.fault = 0#4 ∧ calm.queue = [] ∧
    imem calm.prog calm.pc = some (.add 1#5 2#5 3#5) ∧
    ({ calm with inbox := [.command 0x00000052#32] } : State).runLeft = 0 ∧
    decodeCommand 0x00000052#32 = .ok (.setupFwd .execute .execute) := by decide

theorem witness_StepWithoutFetchOrInput :
    (retiring.runLeft = 1 + 1 ∧ retiring.fault = 0#4 ∧ imem retiring.prog retiring.pc = none) ∧
    ((holding 1).queue ≠ [] ∧ (holding 1).fault = 0#4) ∧
    (({ retiring with fault := 7#4 } : State).runLeft ≠ 0 ∧ ({ retiring with fault := 7#4 } : State).fault ≠ 0#4) ∧
    (calm.runLeft = 0 ∧ calm.inbox = []) := by decide

theorem witness_ReservedWordRaisesIllegalCommand :
    calm.runLeft = 0 ∧ calm.fault = 0#4 ∧ ({ calm with fault := 7#4 } : State).fault ≠ 0#4 ∧
    ({ calm with inbox := [.command 0x00000103#32] } : State).inbox = .command 0x00000103#32 :: [] ∧
    ∀ i : Instr, i.isCommand = true → i.row.accepts 0x00000103#32 = false := by
  refine ⟨rfl, rfl, by decide, rfl, ?_⟩
  intro i hi
  have h : ∀ r ∈ [nopRow, runRow, setupFwdRow, flushAllRow, readRow], r.accepts 0x00000103#32 = false := by decide
  cases i <;> first | exact absurd hi Bool.false_ne_true | exact h _ (by simp [Instr.row])

theorem witness_RunPerformsItsCycles :
    calm.fault = 0#4 ∧ programWf calm.prog = true ∧ 6 ≤ (6#24).toNat ∧ calm.SafeFor 6 := by
  refine ⟨rfl, by decide, by decide, ?_⟩
  unfold State.SafeFor
  decide

theorem witness_SetupFwdEnablesOneEdge :
    (calm.fault = 0#4 ∧ calm.started = false) ∧ (retiring.fault = 0#4 ∧ retiring.started = true) ∧
    ((Stage.memory, Stage.memory) ≠ (Stage.execute, Stage.execute) ∧ (Stage.memory, Stage.memory) ≠ (Stage.memory, Stage.execute)) := by
  decide

theorem witness_FlushAllClearsThePipeline : laden.fault = 0#4 ∧ laden.isDone = false := by decide

theorem witness_ReadAnswersTheStatusRegister :
    (0x20#8).toNat = 0x20 + (0#5).toNat ∧ (0x3F#8).toNat = 0x20 + (31#5).toNat ∧
    (0x0D ≤ (0x0D#8).toNat ∧ (0x0D#8).toNat < 0x20) ∧ (0x0D ≤ (0x1F#8).toNat ∧ (0x1F#8).toNat < 0x20) ∧
    0x40 ≤ (0x40#8).toNat ∧ 0x40 ≤ (0xFF#8).toNat := by decide

/-- A reserved word waits for a PSC that has no cycle due. -/
def asked (f : BitVec 4) : State := { calm with inbox := [.command 0x00000052#32], fault := f }

theorem asked_no_construct (f : BitVec 4) : ∀ a later, (asked f).inbox ≠ .construct a :: later := by
  intro a later h
  have hi : (asked f).inbox = [.command 0x00000052#32] := rfl
  rw [hi] at h
  cases h

theorem witness_EffFreqIsTheMinimum :
    ((asked 0#4).runLeft = 0 → ∀ a later, (asked 0#4).inbox ≠ .construct a :: later) ∧ ∃ t, step (asked 0#4) = .next t :=
  ⟨fun _ => asked_no_construct 0#4, _, rfl⟩

theorem witness_StallRatioIsExact : calm.committed.toNat + calm.stalls.toNat = 0 := by decide

theorem witness_FaultedPscOnlyAnswersReads :
    (asked 7#4).fault ≠ 0#4 ∧ (∀ index, Instr.add 1#5 2#5 3#5 ≠ .read index) ∧ ∃ index, Instr.read 0x00#8 = .read index :=
  ⟨by decide, fun _ h => Instr.noConfusion h, 0x00#8, rfl⟩

theorem witness_FaultIsSticky :
    (asked 7#4).fault ≠ 0#4 ∧ ((asked 7#4).runLeft = 0 → ∀ a later, (asked 7#4).inbox ≠ .construct a :: later) ∧
      ∃ t, step (asked 7#4) = .next t :=
  ⟨by decide, fun _ => asked_no_construct 7#4, _, rfl⟩

theorem witness_ConfigurationIsFixed :
    construct (oneWord .add 0x00430820#32 ⟨1, 1, 1, 1⟩) = .ok constructed ∧
    (∃ t, exec (.setupFwd .execute .execute) retiring = .next t) ∧ retiring.started = true ∧
    (∀ source target, Instr.flushAll ≠ .setupFwd source target) ∧
    ((asked 0#4).runLeft = 0 → ∀ a later, (asked 0#4).inbox ≠ .construct a :: later) ∧ ∃ t, step (asked 0#4) = .next t :=
  ⟨by decide, ⟨_, rfl⟩, rfl, fun _ _ h => Instr.noConfusion h, fun _ => asked_no_construct 0#4, _, rfl⟩

theorem witness_AluInstructionsRunAlone : calm.Drained := calm_drained

theorem witness_LoadRunsAlone :
    calm.Drained ∧ (calm.x 0#5 + (0x0100#16).signExtend 32).extractLsb' 0 2 = 0#2 := ⟨calm_drained, by decide⟩

theorem witness_StoreRunsAlone :
    calm.Drained ∧ Memory.wf calm.dmem = true ∧ (calm.x 0#5 + (0xFFF8#16).signExtend 32).extractLsb' 0 2 = 0#2 :=
  ⟨calm_drained, by decide, by decide⟩

theorem witness_JumpRunsAlone : calm.Drained := calm_drained

theorem witness_MisalignedAccessAloneFaults :
    calm.Drained ∧ (calm.x 0#5 + (1#16).signExtend 32).extractLsb' 0 2 ≠ 0#2 ∧
    (calm.x 0#5 + (2#16).signExtend 32).extractLsb' 0 2 ≠ 0#2 ∧ (calm.x 0#5 + (3#16).signExtend 32).extractLsb' 0 2 ≠ 0#2 :=
  ⟨calm_drained, by decide, by decide, by decide⟩

theorem witness_ProgramInstructionFrame :
    Instr.isProgram (.add 5#5 1#5 1#5) = true ∧ (∀ I, some I ∈ laden.slotW → 2#5 ∉ dsts I.instr) ∧
    Memory.wf laden.dmem = true ∧
    (∀ I rt rs off16, some I ∈ laden.slotM → I.instr = .sw rt rs off16 → I.ea ≠ 0x20#32) := by
  refine ⟨by decide, ?_, by decide, ?_⟩
  · intro I h
    simp [laden] at h
    subst h
    decide
  · intro I rt rs off16 h _
    simp [laden] at h
    subst h
    decide

theorem witness_FaultingCycleIsRolledBack :
    (asked 7#4).fault ≠ 0#4 ∧ misaligned.fault = 0#4 ∧ (cycleWith none misaligned).fault ≠ 0#4 := by decide

theorem witness_OnlyMisalignedDataStopsACycle :
    (misaligned.Sized ∧ misaligned.fault = 0#4 ∧ (cycleWith none misaligned).fault = 7#4) ∧
    (laden.Sized ∧ laden.fault = 0#4 ∧ (cycleWith none laden).fault = 0#4) :=
  ⟨⟨misaligned_sized, rfl, by decide⟩, laden_sized, rfl, by decide⟩

theorem witness_CompletedCycleSetsStarted : calm.fault = 0#4 ∧ (cycle calm).fault = 0#4 := by decide

theorem witness_CompletedCycleRetiresOrStalls :
    (laden.fault = 0#4 ∧ (cycleWith none laden).fault = 0#4 ∧
      laden.slotW.getLast? = some (some { at_ (.add 1#5 2#5 3#5) 0x40000000#32 with res := 12#32 }) ∧
      (Instr.add 1#5 2#5 3#5).kind? = some .add) ∧
    (calm.fault = 0#4 ∧ (cycle calm).fault = 0#4 ∧ ∀ I, calm.slotW.getLast? ≠ some (some I)) := by
  refine ⟨by decide, rfl, by decide, ?_⟩
  intro I h
  simp [calm, small, State.initial] at h

theorem witness_CommittedPlusStallsCountsCycles : calm.fault = 0#4 ∧ calm.SafeFor 6 := by
  refine ⟨rfl, ?_⟩
  unfold State.SafeFor
  decide

theorem witness_PcFollowsFetchAndRedirection :
    (laden.fault = 0#4 ∧ (cycleWith none laden).fault = 0#4 ∧
      ∀ I index26, some I ∈ laden.slotE → I.instr ≠ .j index26) ∧
    (jumpers.fault = 0#4 ∧ (cycleWith none jumpers).fault = 0#4 ∧
      jumpers.slotE = [some (at_ (.j 9#26) 0x40000008#32)] ++ some (at_ (.j 4#26) 0x40000004#32) :: [] ∧
      (at_ (.j 4#26) 0x40000004#32).instr = .j 4#26 ∧
      ∀ I index, some I ∈ ([] : List (Option InFlight)) → I.instr ≠ .j index) :=
  ⟨⟨rfl, by decide, laden_no_jump⟩, rfl, by decide, rfl, rfl, fun _ _ h => absurd h (by simp)⟩

/-- Records in decode, memory and writeback, at latencies 2. -/
def travelling : State :=
  { double [] [] [] with
    slotD := [some (at_ (.add 1#5 2#5 3#5) 0x40000014#32), some (at_ (.lw 1#5 2#5 0#16) 0x40000010#32)]
    slotM := [some { at_ (.sw 3#5 2#5 0#16) 0x4000000C#32 with ea := 0x10#32, sdata := 7#32 },
              some { at_ (.add 1#5 2#5 3#5) 0x40000008#32 with res := 9#32 }]
    slotW := [some { at_ (.lw 4#5 0#5 0#16) 0x40000004#32 with res := 5#32 }, none] }

/-- Its records at the ends of each stage's range of positions: 0 and 1 in decode, 4 and 5 in memory, 6 in writeback. -/
theorem witness_RecordsAdvanceOnePosition_fields :
    travelling.Sized ∧ travelling.fault = 0#4 ∧ (cycleWith none travelling).fault = 0#4 ∧
    (∀ I index26, some I ∈ travelling.slotE → I.instr ≠ .j index26) ∧ 0 < travelling.lat.d ∧ 1 < travelling.lat.d ∧
    travelling.recordAt 4 = some { at_ (.sw 3#5 2#5 0#16) 0x4000000C#32 with ea := 0x10#32, sdata := 7#32 } ∧
    travelling.recordAt 5 = some { at_ (.add 1#5 2#5 3#5) 0x40000008#32 with res := 9#32 } ∧
    travelling.lat.d + travelling.lat.e ≤ 4 ∧ 5 < travelling.lat.d + travelling.lat.e + travelling.lat.m ∧
    (∀ rt rs off16, Instr.sw 3#5 2#5 0#16 ≠ .lw rt rs off16) ∧ (∀ rt rs off16, Instr.add 1#5 2#5 3#5 ≠ .lw rt rs off16) ∧
    travelling.lat.d + travelling.lat.e + travelling.lat.m ≤ 6 ∧ 6 + 1 < travelling.lat.total := by
  refine ⟨⟨by decide, rfl, rfl, rfl, rfl⟩, rfl, by decide, ?_, by decide, by decide, rfl, rfl, by decide, by decide,
    fun _ _ _ h => Instr.noConfusion h, fun _ _ _ h => Instr.noConfusion h, by decide, by decide⟩
  intro I index26 h
  have he : travelling.slotE = [none, none] := rfl
  simp [he] at h

theorem witness_RecordsAdvanceOnePosition :
    laden.Sized ∧ laden.fault = 0#4 ∧ (cycleWith none laden).fault = 0#4 ∧
    (∀ I index26, some I ∈ laden.slotE → I.instr ≠ .j index26) ∧ 0 + 1 < laden.lat.total ∧ 6 + 1 < laden.lat.total ∧
    (laden.recordAt 5).isSome = true :=
  ⟨laden_sized, rfl, by decide, laden_no_jump, by decide, by decide, by decide⟩

theorem witness_RedirectionKillsExactlyTheYounger :
    jumpers.Sized ∧ jumpers.fault = 0#4 ∧ (cycleWith none jumpers).fault = 0#4 ∧
    jumpers.slotE = [some (at_ (.j 9#26) 0x40000008#32)] ++ some (at_ (.j 4#26) 0x40000004#32) :: [] ∧
    (at_ (.j 4#26) 0x40000004#32).instr = .j 4#26 ∧
    (∀ I index, some I ∈ ([] : List (Option InFlight)) → I.instr ≠ .j index) ∧
    3 ≤ jumpers.lat.d + 1 ∧ jumpers.lat.d + 1 ≤ 3 ∧ 3 + 1 < jumpers.lat.total :=
  ⟨jumpers_sized, rfl, by decide, rfl, rfl, fun _ _ h => absurd h (by simp), by decide, by decide, by decide⟩

theorem holding_no_jump (j : Nat) : ∀ I index26, some I ∈ (holding j).slotE → I.instr ≠ .j index26 := by
  intro I index26 h
  have he : (holding j).slotE = [none, none] := rfl
  simp [he] at h

/-- A writer of r1 in the entry slot of execute, counted in its busy count, at latencies 2. -/
def feeding : State :=
  { double [] [] [] with
    slotE := [some (at_ (.add 1#5 2#5 3#5) 0x40000000#32), none], busy := (Vector.replicate 32 0).set 1 1 }

theorem feeding_no_jump : ∀ I index26, some I ∈ feeding.slotE → I.instr ≠ .j index26 := by
  intro I index26 h
  simp [feeding] at h
  subst h
  exact fun hj => Instr.noConfusion hj

/-- The fetched reader of r1 finds its producer at position 3 of 8, so 5 bubbles release it and 4 do not. -/
theorem test_feeding_stalls :
    (cycleWith (some (.add 5#5 1#5 1#5)) feeding).hazardBubbles = 5#64 ∧
    (cycleWith (some (.add 5#5 1#5 1#5)) { feeding with fwdCfg := 0x0020#16 }).hazardBubbles = 5#64 := by decide

theorem witness_IssueQueueStateMachine :
    (feeding.Sized ∧ feeding.fault = 0#4 ∧ (cycleWith (some (.add 5#5 1#5 1#5)) feeding).fault = 0#4 ∧ feeding.queue = [] ∧
      feeding.BusyExact ∧ ∀ I index26, some I ∈ feeding.slotE → I.instr ≠ .j index26) ∧
    (laden.Sized ∧ laden.fault = 0#4 ∧ (cycleWith (some (.add 5#5 1#5 1#5)) laden).fault = 0#4 ∧ laden.queue = [] ∧
      ∀ I index26, some I ∈ laden.slotE → I.instr ≠ .j index26) ∧
    ((holding 1).Sized ∧ (holding 1).fault = 0#4 ∧ (cycleWith none (holding 1)).fault = 0#4 ∧
      (holding 1).queue = holdQueue (0 + 1) (at_ (.add 4#5 1#5 1#5) 0x40000004#32) ∧
      ∀ I index26, some I ∈ (holding 1).slotE → I.instr ≠ .j index26) ∧
    ((holding 0).Sized ∧ (holding 0).fault = 0#4 ∧ (cycleWith none (holding 0)).fault = 0#4 ∧
      (holding 0).queue = holdQueue 0 (at_ (.add 4#5 1#5 1#5) 0x40000004#32)) ∧
    (jumpers.Sized ∧ (cycleWith none jumpers).fault = 0#4 ∧
      ∃ I index26, some I ∈ jumpers.slotE ∧ I.instr = .j index26) :=
  ⟨⟨⟨by decide, rfl, rfl, rfl, rfl⟩, rfl, by decide, rfl, by unfold State.BusyExact; decide, feeding_no_jump⟩,
    ⟨laden_sized, rfl, by decide, rfl, laden_no_jump⟩, ⟨holding_sized 1, rfl, by decide, rfl, holding_no_jump 1⟩,
    ⟨holding_sized 0, rfl, by decide, rfl⟩, jumpers_sized, by decide, at_ (.j 9#26) 0x40000008#32, 9#26, by decide, rfl⟩

/-- A jump in execute with an older add before it, at latencies 2. -/
def passing : State :=
  { double [] [(2#5, 7#32)] [] with
    slotE := [some (at_ (.j 4#26) 0x40000004#32), some (at_ (.add 1#5 2#5 2#5) 0x40000000#32)] }

/-- X1's cycle 3 seen at latencies 2: the add older than the jump computes in the cycle in which the jump redirects. -/
theorem test_older_record_computes_beside_a_jump :
    (cycleWith none passing).recordAt 4 = some { at_ (.add 1#5 2#5 2#5) 0x40000000#32 with res := 14#32 } ∧
    (cycleWith none passing).pc = 0x40000010#32 := by decide

theorem witness_ExecuteReadsRegistersAfterWriteback :
    (executing.Sized ∧ executing.fault = 0#4 ∧ (cycleWith none executing).fault = 0#4 ∧
      executing.slotE[0]? = some (some (at_ (.add 1#5 2#5 3#5) 0x40000010#32)) ∧
      executing.slotE[1]? = some (some (at_ (.sub 1#5 2#5 3#5) 0x4000000C#32)) ∧
      executing.slotE[2]? = some (some (at_ (.andi 1#5 2#5 5#16) 0x40000008#32)) ∧
      executing.slotE[3]? = some (some (at_ (.lw 1#5 2#5 1#16) 0x40000004#32)) ∧
      executing.slotE[4]? = some (some (at_ (.sw 1#5 2#5 1#16) 0x40000000#32)) ∧
      ∀ (m : Nat) (K : InFlight) (index : BitVec 26), 0 < m → executing.slotE[m]? = some (some K) → K.instr ≠ .j index) ∧
    (passing.Sized ∧ passing.fault = 0#4 ∧ (cycleWith none passing).fault = 0#4 ∧
      passing.slotE[0]? = some (some (at_ (.j 4#26) 0x40000004#32)) ∧
      ∀ (m : Nat) (K : InFlight) (index : BitVec 26), 0 < m → passing.slotE[m]? = some (some K) → K.instr ≠ .j index) := by
  refine ⟨⟨executing_sized, rfl, by decide, rfl, rfl, rfl, rfl, rfl, ?_⟩, ⟨by decide, rfl, rfl, rfl, rfl⟩, rfl, by decide, rfl, ?_⟩
  · intro m K index _ h
    have hm := List.mem_of_getElem? h
    simp [executing] at hm
    rcases hm with hm | hm | hm | hm | hm <;> subst hm <;> exact fun hj => Instr.noConfusion hj
  · intro m K index hm h
    have he : passing.slotE = [some (at_ (.j 4#26) 0x40000004#32), some (at_ (.add 1#5 2#5 2#5) 0x40000000#32)] := rfl
    match m, hm with
    | 1, _ =>
      simp [he] at h
      subst h
      exact fun hj => Instr.noConfusion hj
    | m + 2, _ => simp [he] at h

theorem witness_LoadReadsBeforeYoungerStores :
    crowded.Sized ∧ crowded.fault = 0#4 ∧ (cycleWith none crowded).fault = 0#4 ∧
    crowded.slotM = [some { at_ (.sw 2#5 0#5 0x10#16) 0x4000000C#32 with ea := 0x10#32, sdata := 22#32 }]
      ++ some { at_ (.lw 1#5 0#5 0x10#16) 0x40000008#32 with ea := 0x10#32 } :: [] ∧
    (at_ (.lw 1#5 0#5 0x10#16) 0x40000008#32).instr = .lw 1#5 0#5 0x10#16 ∧
    (∀ K rt rs off16, some K ∈ ([] : List (Option InFlight)) → K.instr ≠ .sw rt rs off16) :=
  ⟨crowded_sized, rfl, by decide, rfl, rfl, fun _ _ _ _ h => absurd h (by simp)⟩

/-- A load in memory behind an older store to its address, at latencies 2. -/
def chasing : State :=
  { double [] [] [(0x10, 5#32)] with
    slotM := [some { at_ (.lw 1#5 0#5 0x10#16) 0x40000004#32 with ea := 0x10#32 },
              some { at_ (.sw 2#5 0#5 0x10#16) 0x40000000#32 with ea := 0x10#32, sdata := 22#32 }] }

/-- R68 item 1: the load reads the older store's data of this cycle. -/
theorem test_load_reads_older_store :
    (cycleWith none chasing).recordAt 5 = some { at_ (.lw 1#5 0#5 0x10#16) 0x40000004#32 with ea := 0x10#32, res := 22#32 } := by
  decide

theorem witness_LoadReadsYoungestOlderStore :
    (chasing.Sized ∧ Memory.wf chasing.dmem = true ∧ chasing.fault = 0#4 ∧ (cycleWith none chasing).fault = 0#4 ∧
      chasing.slotM = [] ++ some { at_ (.lw 1#5 0#5 0x10#16) 0x40000004#32 with ea := 0x10#32 }
        :: ([] ++ some { at_ (.sw 2#5 0#5 0x10#16) 0x40000000#32 with ea := 0x10#32, sdata := 22#32 } :: []) ∧
      ∀ K rt rs off16, some K ∈ ([] : List (Option InFlight)) → K.instr = .sw rt rs off16 → K.ea ≠ 0x10#32) ∧
    (crowded.Sized ∧ Memory.wf crowded.dmem = true ∧ crowded.fault = 0#4 ∧ (cycleWith none crowded).fault = 0#4 ∧
      crowded.slotM = [some { at_ (.sw 2#5 0#5 0x10#16) 0x4000000C#32 with ea := 0x10#32, sdata := 22#32 }]
        ++ some { at_ (.lw 1#5 0#5 0x10#16) 0x40000008#32 with ea := 0x10#32 } :: []) :=
  ⟨⟨⟨by decide, rfl, rfl, rfl, rfl⟩, by decide, rfl, by decide, rfl, fun _ _ _ _ h => absurd h (by simp)⟩,
    crowded_sized, by decide, rfl, by decide, rfl⟩

theorem witness_YoungestWriterWins :
    crowded.fault = 0#4 ∧ (cycleWith none crowded).fault = 0#4 ∧
    (crowded.slotW = [] ++ some { at_ (.add 1#5 2#5 3#5) 0x40000004#32 with res := 4#32 }
        :: [some { at_ (.add 1#5 2#5 3#5) 0x40000000#32 with res := 3#32 }] ∧
      1#5 ∈ dsts (.add 1#5 2#5 3#5) ∧ ∀ K, some K ∈ ([] : List (Option InFlight)) → 1#5 ∉ dsts K.instr) ∧
    Memory.wf crowded.dmem = true ∧
    (crowded.slotM = [] ++ some { at_ (.sw 2#5 0#5 0x10#16) 0x4000000C#32 with ea := 0x10#32, sdata := 22#32 }
        :: [some { at_ (.lw 1#5 0#5 0x10#16) 0x40000008#32 with ea := 0x10#32 }] ∧
      ∀ K rt rs off16, some K ∈ ([] : List (Option InFlight)) → K.instr = .sw rt rs off16 → K.ea ≠ 0x10#32) :=
  ⟨rfl, by decide, ⟨rfl, by decide, fun _ h => absurd h (by simp)⟩, by decide, rfl, fun _ _ _ _ h => absurd h (by simp)⟩

theorem witness_DoneAfterACycleMeansDrained :
    retiring.Inv ∧ retiring.fault = 0#4 ∧ (cycle retiring).fault = 0#4 ∧ (cycle retiring).isDone = true :=
  ⟨retiring_inv, rfl, by decide, by decide⟩

/-- Drained, past the end of its program, after a first cycle. -/
def finished : State := { calm with pc := 0x40000004#32, started := true }

theorem witness_DrainedCycleOnlyCountsAStall :
    finished.Drained ∧ finished.started = true ∧ imem finished.prog finished.pc = none :=
  ⟨⟨⟨by decide, rfl, rfl, rfl, rfl⟩, rfl, by decide, rfl⟩, rfl, by decide⟩

theorem witness_FirstCyclesCommitNothing :
    construct (oneWord .add 0x00430820#32 ⟨1, 1, 1, 1⟩) = .ok constructed ∧ 4 ≤ constructed.lat.total ∧
      constructed.lat.total ≤ 4 ∧ constructed.SafeFor 4 := by
  refine ⟨by decide, by decide, by decide, ?_⟩
  unfold State.SafeFor
  decide

/-- Two writers of r1 in transit into execute and writeback. -/
def moving : Transit := ⟨none, some (at_ (.add 1#5 2#5 3#5) 0x40000008#32), none, some (at_ (.lw 1#5 0#5 0#16) 0x40000000#32), none⟩

theorem witness_StallCountIsLeastAndBounded :
    1 ≤ retiring.lat.total ∧ (producers moving { retiring with slotW := [none] } (.add 4#5 1#5 1#5)).length = 2 ∧
    ∀ p ∈ producers moving { retiring with slotW := [none] } (.add 4#5 1#5 1#5), 1 ≤ p.2 := by decide

theorem witness_SingleProducerClosedForm :
    Latencies.wf ⟨1, 3, 2, 1⟩ = true ∧ ∀ p ∈ [1, 3, 4, 5, 6], 1 ≤ p ∧ p < Latencies.total ⟨1, 3, 2, 1⟩ := by decide

theorem witness_NoHazardNoStall :
    (inFlightAt moving { retiring with slotW := [none] }).length = 2 ∧
    ∀ p ∈ inFlightAt moving { retiring with slotW := [none] }, ∀ r ∈ srcs (.add 4#5 2#5 3#5), r ∈ dsts p.1.instr →
      ({ retiring with slotW := [none] } : State).busyOf r = 0 := by decide

theorem witness_ForwardingIsTimingOnly : laden.Sized := laden_sized

theorem witness_EveryStepKeepsTheInvariant : retiring.Inv ∧ ∃ t, step retiring = .next t := ⟨retiring_inv, _, rfl⟩

end Sys2Proof.Tests
end

namespace Sys2Proof.Machine

/-! ### What the five steps of a cycle leave as it was -/

/-- The state with everything that a cycle works on blanked. What is left is the configuration of R21, FWD_CFG, `started`,
`fault`, and the model's own fields. -/
def State.fixedPart (s : State) : State :=
  { s with
    slotD := [], slotE := [], slotM := [], slotW := [], queue := [], busy := Vector.replicate 32 0, pc := 0#32
    committed := 0#64, stalls := 0#64, hazardBubbles := 0#64, trace := [], regs := Vector.replicate 32 0#32, dmem := [] }

theorem fixedPart_eq_iff {s t : State} :
    t.fixedPart = s.fixedPart ↔
      t.lat = s.lat ∧ t.freq = s.freq ∧ t.prog = s.prog ∧ t.fwdCfg = s.fwdCfg ∧ t.started = s.started ∧ t.fault = s.fault ∧
      t.runLeft = s.runLeft ∧ t.inbox = s.inbox ∧ t.responses = s.responses ∧ t.constructResult = s.constructResult := by
  simp [State.fixedPart]

@[simp] theorem setSlots_fixedPart (s : State) (st : Stage) (l : List (Option InFlight)) :
    (s.setSlots st l).fixedPart = s.fixedPart := by
  cases st <;> rfl

@[simp] theorem raiseBusy_fixedPart (s : State) (rs : List RegId) : (s.raiseBusy rs).fixedPart = s.fixedPart := by
  rw [raiseBusy_frame]; rfl

@[simp] theorem lowerBusy_fixedPart (s : State) (rs : List RegId) : (s.lowerBusy rs).fixedPart = s.fixedPart := by
  rw [lowerBusy_frame]; rfl

@[simp] theorem redirect_fixedPart (t : Word) (s : State) : (redirect t s).fixedPart = s.fixedPart := by
  rw [redirect_frame]; rfl

theorem fetchStep_fixedPart (found : Option Instr) (s : State) : (fetchStep found s).2.fixedPart = s.fixedPart := by
  unfold fetchStep
  split
  · split <;> rfl
  · rfl

theorem doExecute_fixedPart {st : Stage} {s : State} {d : Emitted} (h : doExecute st s = .ok d) :
    d.state.fixedPart = s.fixedPart := by
  obtain ⟨r, hr, -, -, hd⟩ := doExecute_ok h
  obtain ⟨-, hframe⟩ := runChain_ok hr
  rw [hd, setSlots_fixedPart, hframe]
  rfl

theorem redirectStep_fixedPart (target : Option Word) (fetched : Option InFlight) (s : State) :
    (redirectStep target fetched s).2.fixedPart = s.fixedPart := by
  cases target with
  | none => rfl
  | some t => exact redirect_fixedPart t s

theorem drainStep_fixedPart {fetched : Option InFlight} {s : State} {d : Transit × State}
    (h : drainStep fetched s = .ok d) : d.2.fixedPart = s.fixedPart := by
  obtain ⟨w, m, e, x, hw, hm, he, hx, rfl⟩ := drainStep_ok h
  calc x.state.fixedPart
      _ = (redirectStep e.target fetched e.state).2.fixedPart := doExecute_fixedPart hx
      _ = e.state.fixedPart := redirectStep_fixedPart _ _ _
      _ = m.state.fixedPart := doExecute_fixedPart he
      _ = w.state.fixedPart := doExecute_fixedPart hm
      _ = s.fixedPart := doExecute_fixedPart hw

theorem retireStep_fixedPart (outW : Option InFlight) (s : State) : (retireStep outW s).fixedPart = s.fixedPart := by
  cases outW with
  | none => rfl
  | some I => exact lowerBusy_fixedPart s (dsts I.instr)

theorem issueStep_fixedPart {t : Transit} {s s' : State} (h : issueStep t s = .ok s') : s'.fixedPart = s.fixedPart := by
  obtain ⟨J, k, -, -, rfl⟩ | ⟨-, -, rfl⟩ | ⟨-, -, rfl⟩ := issueStep_ok h
  · exact raiseBusy_fixedPart _ _
  · rfl
  · rfl

theorem load_fixedPart {st : Stage} {e : Option InFlight} {s s' : State} (h : load st e s = .ok s') :
    s'.fixedPart = s.fixedPart := by
  obtain ⟨older, -, rfl⟩ := load_ok h
  exact setSlots_fixedPart _ _ _

theorem loadStep_fixedPart {t : Transit} {s s' : State} (h : loadStep t s = .ok s') : s'.fixedPart = s.fixedPart := by
  obtain ⟨w, m, e, hw, hm, he, hd⟩ := loadStep_ok h
  calc s'.fixedPart
      _ = { e with queue := e.queue.tail }.fixedPart := load_fixedPart hd
      _ = e.fixedPart := rfl
      _ = m.fixedPart := load_fixedPart he
      _ = w.fixedPart := load_fixedPart hm
      _ = s.fixedPart := load_fixedPart hw

/-- A cycle that completes sets `started` and keeps the rest of the fixed part (R176, R177). -/
theorem cycleTry_fixedPart {found : Option Instr} {s s' : State} (h : cycleTry found s = .ok s') :
    s'.fixedPart = { s with started := true }.fixedPart := by
  obtain ⟨d, q, l, hd, hq, hl, rfl⟩ := cycleTry_ok h
  have hkept : l.fixedPart = s.fixedPart :=
    calc l.fixedPart
      _ = q.fixedPart := loadStep_fixedPart hl
      _ = (retireStep d.1.outW d.2).fixedPart := issueStep_fixedPart hq
      _ = d.2.fixedPart := retireStep_fixedPart _ _
      _ = (fetchStep found s).2.fixedPart := drainStep_fixedPart hd
      _ = s.fixedPart := fetchStep_fixedPart found s
  exact congrArg (fun u : State => { u with started := true }) hkept

/-! ### The configuration (R7, R28) -/

/-- The configuration of R21 and FWD_CFG are the same in `t` as in `s`, and a PSC that had started still has. -/
def SameConfig (s t : State) : Prop :=
  t.lat = s.lat ∧ t.freq = s.freq ∧ t.prog = s.prog ∧ t.fwdCfg = s.fwdCfg ∧ (s.started = true → t.started = true)

/-- R7's bound on what may happen to the configuration from `s` to `t`: FWD_CFG alone can change, only by gaining bits, and
only before the PSC has started. -/
def ConfigKept (s t : State) : Prop :=
  t.lat = s.lat ∧ t.freq = s.freq ∧ t.prog = s.prog ∧ t.fwdCfg &&& s.fwdCfg = s.fwdCfg ∧
    (s.started = true → t.fwdCfg = s.fwdCfg ∧ t.started = true)

theorem sameConfig_refl (s : State) : SameConfig s s := ⟨rfl, rfl, rfl, rfl, id⟩

theorem SameConfig.configKept {s t : State} (h : SameConfig s t) : ConfigKept s t := by
  obtain ⟨hlat, hfreq, hprog, hfwd, hstarted⟩ := h
  exact ⟨hlat, hfreq, hprog, by rw [hfwd, BitVec.and_self], fun hs => ⟨hfwd, hstarted hs⟩⟩

/-- An edge that is enabled before the first cycle adds a bit and clears none (R28, R156). -/
theorem acceptForwarding_configKept (source target : Stage) {s : State} (h : s.started = false) :
    ConfigKept s (acceptForwarding source target s) := by
  refine ⟨rfl, rfl, rfl, ?_, fun hs => by simp [h] at hs⟩
  show (s.fwdCfg ||| 1#16 <<< edgeBit source target) &&& s.fwdCfg = s.fwdCfg
  ext i
  simp +contextual

theorem enterFaulted_sameConfig (k : FaultKind) (s : State) : SameConfig s (enterFaulted k s) := by
  rw [enterFaulted_frame]
  exact sameConfig_refl s

/-- A cycle, whether it completes, is rolled back or does nothing, changes no configuration (R170, R289). -/
theorem cycleWith_sameConfig (found : Option Instr) (s : State) : SameConfig s (cycleWith found s) := by
  obtain ⟨-, h⟩ | ⟨-, s', hok, h⟩ | ⟨-, k, -, h⟩ := cycleWith_cases found s <;> rw [h]
  · exact sameConfig_refl s
  · obtain ⟨hlat, hfreq, hprog, hfwd, hstarted, -⟩ := fixedPart_eq_iff.mp (cycleTry_fixedPart hok)
    exact ⟨hlat, hfreq, hprog, hfwd, fun _ => hstarted⟩
  · exact sameConfig_refl s

theorem execFlushAll_sameConfig {s t : State} (h : execFlushAll s = .next t) : SameConfig s t := by
  cases h
  split <;> exact sameConfig_refl s

/-- SETUP_FWD changes the configuration only by enabling its edge, before the PSC has started (R252, R284). -/
theorem execSetupFwd_cases {source target : Stage} {s t : State} (h : execSetupFwd source target s = .next t) :
    SameConfig s t ∨ (s.started = false ∧ t = acceptForwarding source target s) := by
  cases h
  split
  · exact .inl (sameConfig_refl s)
  split
  · exact .inl (enterFaulted_sameConfig _ s)
  next hstarted =>
    split
    · exact .inl (enterFaulted_sameConfig _ s)
    · exact .inr ⟨Bool.eq_false_iff.mpr hstarted, rfl⟩

/-- The one thing an instruction can do to the configuration is SETUP_FWD's enabling of an edge (R7, R252). -/
theorem exec_config_cases {i : Instr} {s t : State} (h : exec i s = .next t) :
    SameConfig s t ∨
      ∃ source target, i = .setupFwd source target ∧ s.started = false ∧ t = acceptForwarding source target s := by
  cases i with
  | setupFwd source target =>
    exact (execSetupFwd_cases h).imp_right fun ⟨hs, ht⟩ => ⟨source, target, rfl, hs, ht⟩
  | flushAll => exact .inl (execFlushAll_sameConfig h)
  | run n => cases h; split <;> exact .inl (sameConfig_refl s)
  | nop | read index => cases h; exact .inl (sameConfig_refl s)
  | add | sub | andi | lw | sw | j => cases h; exact .inl (cycleWith_sameConfig _ s)

theorem exec_configKept {i : Instr} {s t : State} (h : exec i s = .next t) : ConfigKept s t := by
  obtain hsame | ⟨source, target, -, hs, rfl⟩ := exec_config_cases h
  · exact hsame.configKept
  · exact acceptForwarding_configKept source target hs

/-- FWD_CFG changes by SETUP_FWD only, and only before the first completed cycle (R7). -/
theorem exec_fwdCfg {i : Instr} {s t : State} (h : exec i s = .next t)
    (hi : s.started = true ∨ ∀ source target, i ≠ .setupFwd source target) : t.fwdCfg = s.fwdCfg := by
  obtain ⟨-, -, -, hfwd, -⟩ | ⟨source, target, hset, hs, -⟩ := exec_config_cases h
  · exact hfwd
  · obtain hstarted | hno := hi
    · simp [hs] at hstarted
    · exact absurd hset (hno source target)

/-- A step that takes no CONSTRUCT keeps the configuration as R7 says. -/
theorem step_configKept {s t : State} (hno : s.runLeft = 0 → ∀ a later, s.inbox ≠ .construct a :: later)
    (h : step s = .next t) : ConfigKept s t := by
  obtain ⟨n, i, -, -, -, hexec⟩ | ⟨n, -, -, -, rfl⟩ | ⟨-, -, rfl⟩ | ⟨-, -, rfl⟩ | ⟨-, w, later, c, -, -, hexec⟩ |
    ⟨-, w, later, e, -, -, rfl⟩ | ⟨hr, a, later, u, hi, -, -⟩ := step_next h
  · exact exec_configKept (s := { s with runLeft := n }) hexec
  · exact (cycleWith_sameConfig none { s with runLeft := n }).configKept
  · exact (sameConfig_refl s).configKept
  · exact (sameConfig_refl t).configKept
  · exact exec_configKept (s := { s with inbox := later }) hexec
  · exact (enterFaulted_sameConfig .illegalCommand { s with inbox := later }).configKept
  · exact absurd hi (hno hr a later)

/-- A CONSTRUCT that succeeds decoded its program, and gives the initial state of R39 with it (R251). -/
theorem construct_ok {a : ConstructArgs} {s : State} (h : construct a = .ok s) :
    ∃ prog, decodeProgram a.program = .ok prog ∧ (a.lat.wf && a.freq.wf && programLengthOk prog.length) = true ∧
      s = State.initial a.lat a.freq prog a.rf0 (Memory.ofPairs a.mem0) := by
  unfold construct at h
  split at h
  · cases h
  next prog hprog =>
    split at h
    next hwf => cases h; exact ⟨prog, hprog, hwf, rfl⟩
    · cases h

/-- Settles O25: construction gives the configuration, and by `exec_config_cases` only an accepted SETUP_FWD touches it. -/
theorem configurationIsFixed : Obligations.ConfigurationIsFixed := by
  unfold Obligations.ConfigurationIsFixed
  refine ⟨fun a s h => ?_, fun i s t h => ?_, fun s t hno h => step_configKept hno h⟩
  · obtain ⟨prog, hprog, -, rfl⟩ := construct_ok h
    exact ⟨rfl, rfl, hprog⟩
  · obtain ⟨hlat, hfreq, hprog, hbits, -⟩ := exec_configKept h
    exact ⟨hlat, hfreq, hprog, hbits, exec_fwdCfg h⟩

end Sys2Proof.Machine

namespace Sys2Proof.Machine

/-! ### Completed cycles (R176) -/

/-- A cycle that ends with `fault = 0` went through all five steps: it did not start FAULTED, and no step of it raised a fault,
since every fault kind has a nonzero code (R280, R289). -/
theorem cycleTry_of_fault_eq_zero {found : Option Instr} {s : State} (h : (cycleWith found s).fault = 0#4) :
    cycleTry found s = .ok (cycleWith found s) := by
  obtain ⟨hf, hs⟩ | ⟨-, s', hok, hs⟩ | ⟨-, k, -, hs⟩ := cycleWith_cases found s
  · exact absurd (hs ▸ h) hf
  · rw [hs, hok]
  · rw [hs] at h
    exact absurd h (code_ne_zero k)

theorem cycleTry_started {found : Option Instr} {s s' : State} (h : cycleTry found s = .ok s') : s'.started = true := by
  obtain ⟨-, -, l, -, -, -, rfl⟩ := cycleTry_ok h
  rfl

/-- Settles O34: a cycle that ends without a fault completed its five steps, after which `started` is set. -/
theorem completedCycleSetsStarted : Obligations.CompletedCycleSetsStarted := by
  unfold Obligations.CompletedCycleSetsStarted
  intro found s _ hend
  exact cycleTry_started (cycleTry_of_fault_eq_zero hend)

end Sys2Proof.Machine

namespace Sys2Proof.Machine

/-! ### NOP (R255) -/

theorem exec_nop (s : State) : exec .nop s = execNop s := rfl

/-- Settles O16: NOP's arm of `exec` answers the state it was given, whatever its fault code. -/
theorem nopDoesNothing : Obligations.NopDoesNothing := by
  unfold Obligations.NopDoesNothing
  intro s
  calc exec .nop s
    _ = execNop s := exec_nop s
    _ = .next s := rfl

/-! ### The effective frequency (R258) -/

theorem minWord_eq_or (a b : Word) : minWord a b = a ∨ minWord a b = b := by
  unfold minWord
  exact ite_eq_or_eq _ a b

@[simp] theorem minWord_toNat (a b : Word) : (minWord a b).toNat = min a.toNat b.toNat := by
  rw [minWord, apply_ite BitVec.toNat, min_def]

/-- EFF_FREQ is the frequency of a stage, not merely a bound. -/
theorem effFreq_mem (f : Frequencies) : effFreq f ∈ [f.d, f.e, f.m, f.w] := by
  unfold effFreq
  obtain h | h := minWord_eq_or (minWord f.d f.e) (minWord f.m f.w) <;> rw [h]
  · obtain h | h := minWord_eq_or f.d f.e <;> simp [h]
  · obtain h | h := minWord_eq_or f.m f.w <;> simp [h]

theorem effFreq_toNat (f : Frequencies) :
    (effFreq f).toNat = min (min f.d.toNat f.e.toNat) (min f.m.toNat f.w.toNat) := by
  simp [effFreq]

theorem effFreq_le_of_mem {f : Frequencies} {g : Word} (h : g ∈ [f.d, f.e, f.m, f.w]) :
    (effFreq f).toNat ≤ g.toNat := by
  have hmin := effFreq_toNat f
  simp only [List.mem_cons, List.not_mem_nil, or_false] at h
  obtain rfl | rfl | rfl | rfl := h <;> omega

theorem statusAt_effFreq (s : State) : s.statusAt 0x0A#8 = effFreq s.freq := rfl

/-- A step that takes no CONSTRUCT keeps the four stage frequencies (R7). -/
theorem step_freq {s t : State} (hno : s.runLeft = 0 → ∀ a later, s.inbox ≠ .construct a :: later)
    (h : step s = .next t) : t.freq = s.freq := by
  obtain ⟨-, hfreq, -⟩ := step_configKept hno h
  exact hfreq

/-- Settles O21: a minimum of minima is one of the four and below each, and it is fixed because the frequencies are. -/
theorem effFreqIsTheMinimum : Obligations.EffFreqIsTheMinimum := by
  unfold Obligations.EffFreqIsTheMinimum
  intro s
  exact ⟨effFreq_mem s.freq, fun _ => effFreq_le_of_mem, statusAt_effFreq s,
    fun t hno h => congrArg effFreq (step_freq hno h)⟩

end Sys2Proof.Machine

namespace Sys2Proof.Machine

/-! ### SETUP_FWD (R252, R284, R285) -/

theorem exec_setupFwd (source target : Stage) (s : State) :
    exec (.setupFwd source target) s = execSetupFwd source target s := rfl

/-- The edges with a meaning are EX→EX and MEM→EX (R28, R285). -/
theorem edgeSupported_iff {source target : Stage} :
    edgeSupported source target = true ↔
      (source, target) = (.execute, .execute) ∨ (source, target) = (.memory, .execute) := by
  simp [edgeSupported]

/-- With no code set, entering the FAULTED state sets the code and changes nothing else (R289). -/
theorem enterFaulted_of_fault_eq_zero (k : FaultKind) {s : State} (h : s.fault = 0#4) :
    enterFaulted k s = { s with fault := k.code } := by
  rw [enterFaulted_frame, enterFaulted_fault, if_pos h]

/-- EX→EX is bit 5 of FWD_CFG (R28). -/
theorem acceptForwarding_execute_execute (s : State) :
    acceptForwarding .execute .execute s = { s with fwdCfg := s.fwdCfg ||| 0x0020#16 } := rfl

/-- MEM→EX is bit 9 of FWD_CFG (R28). -/
theorem acceptForwarding_memory_execute (s : State) :
    acceptForwarding .memory .execute s = { s with fwdCfg := s.fwdCfg ||| 0x0200#16 } := rfl

/-- The first check of R252: after the first cycle every pair is late, a supported one too (R284). -/
theorem execSetupFwd_of_started {s : State} (hf : s.fault = 0#4) (hs : s.started = true) (source target : Stage) :
    execSetupFwd source target s = .next (enterFaulted .lateConfiguration s) := by
  simp [execSetupFwd, hf, hs]

/-- The second check of R252: before the first cycle, what happens depends on the pair alone (R285, R156). -/
theorem execSetupFwd_of_not_started {s : State} (hf : s.fault = 0#4) (hs : s.started = false) (source target : Stage) :
    execSetupFwd source target s =
      .next (if edgeSupported source target = true then acceptForwarding source target s
        else enterFaulted .unsupportedForwardingEdge s) := by
  cases h : edgeSupported source target <;> simp [execSetupFwd, hf, hs, h]

/-- Settles O18: R252's checks in their order, late configuration before the pair; an accepted pair sets the bit of its edge. -/
theorem setupFwdEnablesOneEdge : Obligations.SetupFwdEnablesOneEdge := by
  unfold Obligations.SetupFwdEnablesOneEdge
  intro s hf
  refine ⟨fun hs source target => ?late, fun hs => ⟨?exEx, ?memEx, fun source target hexEx hmemEx => ?unsupported⟩⟩
  case late =>
    rw [exec_setupFwd, execSetupFwd_of_started hf hs, enterFaulted_of_fault_eq_zero _ hf, FaultKind.code]
  case exEx =>
    rw [exec_setupFwd, execSetupFwd_of_not_started hf hs, if_pos (edgeSupported_iff.mpr (.inl rfl)),
      acceptForwarding_execute_execute]
  case memEx =>
    rw [exec_setupFwd, execSetupFwd_of_not_started hf hs, if_pos (edgeSupported_iff.mpr (.inr rfl)),
      acceptForwarding_memory_execute]
  case unsupported =>
    have hno : ¬ edgeSupported source target = true := fun h => (edgeSupported_iff.mp h).elim hexEx hmemEx
    rw [exec_setupFwd, execSetupFwd_of_not_started hf hs, if_neg hno, enterFaulted_of_fault_eq_zero _ hf, FaultKind.code]

end Sys2Proof.Machine

namespace Sys2Proof

/-! ### Rows of the opcode table (R84, R92, R94) -/

/-- An instruction's word satisfies MATCH and MASK of its row. -/
theorem row_accepts_encode (i : Instr) : i.row.accepts (encode i) = true := by
  cases i with
  | add rd rs rt => exact Laws.MatchesRow.add rd rs rt
  | sub rd rs rt => exact Laws.MatchesRow.sub rd rs rt
  | andi rt rs imm16 => exact Laws.MatchesRow.andi rt rs imm16
  | lw rt rs off16 => exact Laws.MatchesRow.lw rt rs off16
  | sw rt rs off16 => exact Laws.MatchesRow.sw rt rs off16
  | j index26 => exact Laws.MatchesRow.j index26
  | nop => exact Laws.MatchesRow.nop
  | run n => exact Laws.MatchesRow.run n
  | setupFwd source target => exact Laws.MatchesRow.setupFwd source target
  | flushAll => exact Laws.MatchesRow.flushAll
  | read index => exact Laws.MatchesRow.read index

theorem row_of_kind {i : Instr} {k : Kind} (h : i.kind? = some k) : i.row = k.row := by
  cases i <;> cases h <;> rfl

theorem accepts_iff {r : EncodingRow} {w : Word} : r.accepts w = true ↔ w &&& r.mask = r.pattern := by
  simp [EncodingRow.accepts]

/-- The rows of the opcode table in its order, which is the order of the constructors of `Instr`. -/
def tableRow (n : Fin 11) : EncodingRow :=
  #v[Kind.row .add, Kind.row .sub, Kind.row .andi, Kind.row .lw, Kind.row .sw, Kind.row .j,
     nopRow, runRow, setupFwdRow, flushAllRow, readRow][n]

/-- The kinds of the rows of the opcode table; a host command has none. -/
def tableKind (n : Fin 11) : Option Kind :=
  #v[some .add, some .sub, some .andi, some .lw, some .sw, some .j, none, none, none, none, none][n]

theorem instr_in_table (i : Instr) : ∃ n : Fin 11, i.ctorIdx = n ∧ i.row = tableRow n ∧ i.kind? = tableKind n := by
  cases i with
  | add => exact ⟨0, rfl, rfl, rfl⟩
  | sub => exact ⟨1, rfl, rfl, rfl⟩
  | andi => exact ⟨2, rfl, rfl, rfl⟩
  | lw => exact ⟨3, rfl, rfl, rfl⟩
  | sw => exact ⟨4, rfl, rfl, rfl⟩
  | j => exact ⟨5, rfl, rfl, rfl⟩
  | nop => exact ⟨6, rfl, rfl, rfl⟩
  | run => exact ⟨7, rfl, rfl, rfl⟩
  | setupFwd => exact ⟨8, rfl, rfl, rfl⟩
  | flushAll => exact ⟨9, rfl, rfl, rfl⟩
  | read => exact ⟨10, rfl, rfl, rfl⟩

/-- Two rows that accept one word agree on the bits that both fix. -/
theorem patterns_agree {r r' : EncodingRow} {w : Word} (h : r.accepts w = true) (h' : r'.accepts w = true) :
    r.pattern &&& r'.mask = r'.pattern &&& r.mask := by
  rw [accepts_iff] at h h'
  rw [← h, ← h', BitVec.and_assoc, BitVec.and_assoc, BitVec.and_comm r.mask]

/-- Two different rows of one word space fix some bit differently (R92, R94). -/
theorem table_rows_differ : ∀ m n : Fin 11, (tableKind m).isSome = (tableKind n).isSome →
    (tableRow m).pattern &&& (tableRow n).mask = (tableRow n).pattern &&& (tableRow m).mask → m = n := by
  decide

theorem ctorIdx_eq_of_accepts {w : Word} {i i' : Instr} (hspace : i.isProgram = i'.isProgram)
    (h : i.row.accepts w = true) (h' : i'.row.accepts w = true) :
    i.row = i'.row ∧ i.kind? = i'.kind? ∧ i.ctorIdx = i'.ctorIdx := by
  obtain ⟨m, hm, hrow, hkind⟩ := instr_in_table i
  obtain ⟨n, hn, hrow', hkind'⟩ := instr_in_table i'
  have hmn : m = n := table_rows_differ m n (by rw [← hkind, ← hkind']; exact hspace)
    (by rw [← hrow, ← hrow']; exact patterns_agree h h')
  subst hmn
  exact ⟨hrow.trans hrow'.symm, hkind.trans hkind'.symm, hm.trans hn.symm⟩

/-- Settles O4: two different rows of one space disagree on a bit that both fix. -/
theorem rowsOfOneSpaceAreDisjoint : Obligations.RowsOfOneSpaceAreDisjoint := by
  unfold Obligations.RowsOfOneSpaceAreDisjoint
  intro w i i' hspace h h'
  exact ctorIdx_eq_of_accepts hspace h h'

/-! ### The fields of a word put together from them (R81 to R83, R91) -/

section
variable (op f : BitVec 6) (rs rt rd sh : RegId) (imm : BitVec 16)

theorem rsField_rFormat : rsField (op ++ rs ++ rt ++ rd ++ sh ++ f) = rs := by
  simp only [rsField, BitVec.extractLsb'_append_eq_ite]; simp
theorem rtField_rFormat : rtField (op ++ rs ++ rt ++ rd ++ sh ++ f) = rt := by
  simp only [rtField, BitVec.extractLsb'_append_eq_ite]; simp
theorem rdField_rFormat : rdField (op ++ rs ++ rt ++ rd ++ sh ++ f) = rd := by
  simp only [rdField, BitVec.extractLsb'_append_eq_ite]; simp
theorem rsField_iFormat : rsField (op ++ rs ++ rt ++ imm) = rs := by
  simp only [rsField, BitVec.extractLsb'_append_eq_ite]; simp
theorem rtField_iFormat : rtField (op ++ rs ++ rt ++ imm) = rt := by
  simp only [rtField, BitVec.extractLsb'_append_eq_ite]; simp
theorem imm16Field_iFormat : imm16Field (op ++ rs ++ rt ++ imm) = imm := by
  simp only [imm16Field, BitVec.extractLsb'_append_eq_ite]; simp
theorem index26Field_jFormat (index26 : BitVec 26) : index26Field (op ++ index26) = index26 := by
  simp only [index26Field, BitVec.extractLsb'_append_eq_ite]; simp
end

theorem countField_encode (n : BitVec 24) : countField (encode (.run n)) = n := by
  simp only [countField, encode, BitVec.extractLsb'_append_eq_ite]; simp
theorem indexField_encode (index : BitVec 8) : indexField (encode (.read index)) = index := by
  simp only [indexField, encode, BitVec.extractLsb'_append_eq_ite]; simp

theorem cutFields_encode {i : Instr} {k : Kind} (h : i.kind? = some k) : cutFields k (encode i) = i := by
  cases i <;> cases h <;>
    simp only [cutFields, encode, rsField_rFormat, rtField_rFormat, rdField_rFormat, rsField_iFormat, rtField_iFormat,
      imm16Field_iFormat, index26Field_jFormat]

/-- Settles O1: the word of an instruction satisfies its row, and each field cut from it is the operand put there. -/
theorem programWordsRoundTrip : Obligations.ProgramWordsRoundTrip := by
  unfold Obligations.ProgramWordsRoundTrip
  intro i k hk
  rw [decodeAs, if_pos (row_of_kind hk ▸ row_accepts_encode i), cutFields_encode hk]

/-! ### Command words (R91 to R93) -/

/-- A word that is accepted by a command's row is decoded as the command of that row: no earlier row accepts it. -/
theorem accepts_eq_false {w : Word} {i i' : Instr} (h : i.row.accepts w = true) (hspace : i.isProgram = i'.isProgram)
    (hne : i.ctorIdx ≠ i'.ctorIdx) : i'.row.accepts w = false :=
  Bool.eq_false_iff.mpr fun h' => hne (ctorIdx_eq_of_accepts hspace h h').2.2

section
variable {w : Word}

theorem decodeCommand_nop (h : nopRow.accepts w = true) : decodeCommand w = .ok .nop := by
  rw [decodeCommand, if_pos h]

theorem decodeCommand_run (h : runRow.accepts w = true) : decodeCommand w = .ok (.run (countField w)) := by
  have hnop : nopRow.accepts w = false := accepts_eq_false (i := .run 0) (i' := .nop) h rfl (by decide)
  simp [decodeCommand, h, hnop]

theorem decodeCommand_setupFwd (h : setupFwdRow.accepts w = true) : decodeCommand w =
    .ok (.setupFwd (Stage.ofCode (w.extractLsb' 4 2)) (Stage.ofCode (w.extractLsb' 6 2))) := by
  have hnop : nopRow.accepts w = false := accepts_eq_false (i := .setupFwd .decode .decode) (i' := .nop) h rfl (by decide)
  have hrun : runRow.accepts w = false := accepts_eq_false (i := .setupFwd .decode .decode) (i' := .run 0) h rfl (by decide)
  simp [decodeCommand, h, hnop, hrun]

theorem decodeCommand_flushAll (h : flushAllRow.accepts w = true) : decodeCommand w = .ok .flushAll := by
  have hnop : nopRow.accepts w = false := accepts_eq_false (i := .flushAll) (i' := .nop) h rfl (by decide)
  have hrun : runRow.accepts w = false := accepts_eq_false (i := .flushAll) (i' := .run 0) h rfl (by decide)
  have hset : setupFwdRow.accepts w = false :=
    accepts_eq_false (i := .flushAll) (i' := .setupFwd .decode .decode) h rfl (by decide)
  simp [decodeCommand, h, hnop, hrun, hset]

theorem decodeCommand_read (h : readRow.accepts w = true) : decodeCommand w = .ok (.read (indexField w)) := by
  have hnop : nopRow.accepts w = false := accepts_eq_false (i := .read 0) (i' := .nop) h rfl (by decide)
  have hrun : runRow.accepts w = false := accepts_eq_false (i := .read 0) (i' := .run 0) h rfl (by decide)
  have hset : setupFwdRow.accepts w = false :=
    accepts_eq_false (i := .read 0) (i' := .setupFwd .decode .decode) h rfl (by decide)
  have hflush : flushAllRow.accepts w = false := accepts_eq_false (i := .read 0) (i' := .flushAll) h rfl (by decide)
  simp [decodeCommand, h, hnop, hrun, hset, hflush]

end

/-- What command selection answers, in one place: the command of a row that accepts the word, or the reserved word's error when no
row does (R92, R93). -/
theorem decodeCommand_cases (w : Word) :
    (nopRow.accepts w = true ∧ decodeCommand w = .ok .nop) ∨
    (runRow.accepts w = true ∧ decodeCommand w = .ok (.run (countField w))) ∨
    (setupFwdRow.accepts w = true ∧
      decodeCommand w = .ok (.setupFwd (Stage.ofCode (w.extractLsb' 4 2)) (Stage.ofCode (w.extractLsb' 6 2)))) ∨
    (flushAllRow.accepts w = true ∧ decodeCommand w = .ok .flushAll) ∨
    (readRow.accepts w = true ∧ decodeCommand w = .ok (.read (indexField w))) ∨
    (nopRow.accepts w = false ∧ runRow.accepts w = false ∧ setupFwdRow.accepts w = false ∧ flushAllRow.accepts w = false ∧
      readRow.accepts w = false ∧ decodeCommand w = .error .illegalCommand) := by
  by_cases hnop : nopRow.accepts w = true
  · exact .inl ⟨hnop, decodeCommand_nop hnop⟩
  by_cases hrun : runRow.accepts w = true
  · exact .inr (.inl ⟨hrun, decodeCommand_run hrun⟩)
  by_cases hset : setupFwdRow.accepts w = true
  · exact .inr (.inr (.inl ⟨hset, decodeCommand_setupFwd hset⟩))
  by_cases hflush : flushAllRow.accepts w = true
  · exact .inr (.inr (.inr (.inl ⟨hflush, decodeCommand_flushAll hflush⟩)))
  by_cases hread : readRow.accepts w = true
  · exact .inr (.inr (.inr (.inr (.inl ⟨hread, decodeCommand_read hread⟩))))
  simp only [Bool.not_eq_true] at hnop hrun hset hflush hread
  exact .inr (.inr (.inr (.inr (.inr ⟨hnop, hrun, hset, hflush, hread, by simp [decodeCommand, *]⟩))))

theorem ofCode_code (st : Stage) : Stage.ofCode st.code = st := by
  cases st <;> rfl

theorem code_ofCode (c : BitVec 2) : (Stage.ofCode c).code = c := by
  revert c; decide

theorem stageFields_encode (source target : Stage) :
    (encode (.setupFwd source target)).extractLsb' 4 2 = source.code ∧
    (encode (.setupFwd source target)).extractLsb' 6 2 = target.code := by
  cases source <;> cases target <;> decide

/-- Settles O2: a command's word is accepted by its own row and no earlier one, and its fields are the operands. -/
theorem commandWordsRoundTrip : Obligations.CommandWordsRoundTrip := by
  unfold Obligations.CommandWordsRoundTrip
  intro i hi
  have hrow := row_accepts_encode i
  cases i with
  | nop => exact decodeCommand_nop hrow
  | run n => rw [decodeCommand_run hrow, countField_encode]
  | setupFwd source target =>
    obtain ⟨hs, ht⟩ := stageFields_encode source target
    rw [decodeCommand_setupFwd hrow, hs, ht, ofCode_code, ofCode_code]
  | flushAll => exact decodeCommand_flushAll hrow
  | read index => rw [decodeCommand_read hrow, indexField_encode]
  | add | sub | andi | lw | sw | j => cases hi

/-! ### From an accepted word back to its instruction -/

/-- What an accepted word holds in a field that the row fixes. -/
theorem field_of_accepts {r : EncodingRow} {w : Word} (h : r.accepts w = true) (start len : Nat)
    (hm : r.mask.extractLsb' start len = BitVec.allOnes len) :
    w.extractLsb' start len = r.pattern.extractLsb' start len := by
  rw [← accepts_iff.mp h, BitVec.extractLsb'_and, hm, BitVec.and_allOnes]

section
variable (w : Word)

theorem rFormat_eq :
    w.extractLsb' 26 6 ++ rsField w ++ rtField w ++ rdField w ++ w.extractLsb' 6 5 ++ w.extractLsb' 0 6 = w := by
  simp only [rsField, rtField, rdField]
  repeat rw [BitVec.extractLsb'_append_extractLsb'_eq_extractLsb' (by decide)]
  exact BitVec.extractLsb'_eq_self

theorem iFormat_eq : w.extractLsb' 26 6 ++ rsField w ++ rtField w ++ imm16Field w = w := by
  simp only [rsField, rtField, imm16Field]
  repeat rw [BitVec.extractLsb'_append_extractLsb'_eq_extractLsb' (by decide)]
  exact BitVec.extractLsb'_eq_self

theorem jFormat_eq : w.extractLsb' 26 6 ++ index26Field w = w := by
  rw [index26Field, BitVec.extractLsb'_append_extractLsb'_eq_extractLsb' (by decide)]
  exact BitVec.extractLsb'_eq_self

theorem runFormat_eq : countField w ++ w.extractLsb' 0 8 = w := by
  rw [countField, BitVec.extractLsb'_append_extractLsb'_eq_extractLsb' (by decide)]
  exact BitVec.extractLsb'_eq_self

theorem setupFwdFormat_eq :
    w.extractLsb' 8 24 ++ w.extractLsb' 6 2 ++ w.extractLsb' 4 2 ++ w.extractLsb' 0 4 = w := by
  repeat rw [BitVec.extractLsb'_append_extractLsb'_eq_extractLsb' (by decide)]
  exact BitVec.extractLsb'_eq_self

theorem readFormat_eq : w.extractLsb' 16 16 ++ indexField w ++ w.extractLsb' 0 8 = w := by
  rw [indexField]
  repeat rw [BitVec.extractLsb'_append_extractLsb'_eq_extractLsb' (by decide)]
  exact BitVec.extractLsb'_eq_self

variable {w}

/-- A row whose MASK is the opcode field alone fixes that field (R82, R83, R94). -/
theorem opcode_of_accepts {r : EncodingRow} (h : r.accepts w = true) (hm : r.mask = 0xFC000000#32) :
    w.extractLsb' 26 6 = r.pattern.extractLsb' 26 6 :=
  field_of_accepts h 26 6 (by rw [hm]; decide)

/-- The rows of the R format fix opcode, shamt and funct (R81, R94). -/
theorem rFormat_of_accepts {r : EncodingRow} {funct : BitVec 6} (h : r.accepts w = true) (hm : r.mask = 0xFC0007FF#32)
    (hp : r.pattern = 0#26 ++ funct) : 0x00#6 ++ rsField w ++ rtField w ++ rdField w ++ 0x00#5 ++ funct = w := by
  have hop : w.extractLsb' 26 6 = 0x00#6 := by
    rw [field_of_accepts h 26 6 (by rw [hm]; decide), hp, BitVec.extractLsb'_append_eq_of_le (by decide)]; decide
  have hshamt : w.extractLsb' 6 5 = 0x00#5 := by
    rw [field_of_accepts h 6 5 (by rw [hm]; decide), hp, BitVec.extractLsb'_append_eq_of_le (by decide)]; decide
  have hfunct : w.extractLsb' 0 6 = funct := by
    rw [field_of_accepts h 0 6 (by rw [hm]; decide), hp, BitVec.extractLsb'_append_eq_right]
  rw [← hop, ← hshamt, ← hfunct]
  exact rFormat_eq w

theorem iFormat_of_accepts {r : EncodingRow} {op : BitVec 6} (h : r.accepts w = true) (hm : r.mask = 0xFC000000#32)
    (hp : r.pattern.extractLsb' 26 6 = op) : op ++ rsField w ++ rtField w ++ imm16Field w = w := by
  rw [← hp, ← opcode_of_accepts h hm]
  exact iFormat_eq w

theorem encode_cutFields {k : Kind} (h : k.row.accepts w = true) : encode (cutFields k w) = w := by
  cases k with
  | add => exact rFormat_of_accepts h rfl (by decide)
  | sub => exact rFormat_of_accepts h rfl (by decide)
  | andi => exact iFormat_of_accepts h rfl (by decide)
  | lw => exact iFormat_of_accepts h rfl (by decide)
  | sw => exact iFormat_of_accepts h rfl (by decide)
  | j =>
    have hop : w.extractLsb' 26 6 = 0x02#6 := opcode_of_accepts h rfl
    rw [cutFields, encode, ← hop]
    exact jFormat_eq w

theorem kind_cutFields (k : Kind) : (cutFields k w).kind? = some k := by
  cases k <;> rfl

theorem encode_run_of_accepts (h : runRow.accepts w = true) : encode (.run (countField w)) = w :=
  calc encode (.run (countField w))
    _ = countField w ++ w.extractLsb' 0 8 := by rw [field_of_accepts h 0 8 (by decide)]; rfl
    _ = w := runFormat_eq w

theorem encode_setupFwd_of_accepts (h : setupFwdRow.accepts w = true) :
    encode (.setupFwd (Stage.ofCode (w.extractLsb' 4 2)) (Stage.ofCode (w.extractLsb' 6 2))) = w := by
  have hhigh : w.extractLsb' 8 24 = 0x000000#24 := field_of_accepts h 8 24 (by decide)
  have hop : w.extractLsb' 0 4 = 0x2#4 := field_of_accepts h 0 4 (by decide)
  rw [encode, code_ofCode, code_ofCode, ← hhigh, ← hop]
  exact setupFwdFormat_eq w

theorem encode_read_of_accepts (h : readRow.accepts w = true) : encode (.read (indexField w)) = w :=
  calc encode (.read (indexField w))
    _ = w.extractLsb' 16 16 ++ indexField w ++ w.extractLsb' 0 8 := by
      rw [field_of_accepts h 16 16 (by decide), field_of_accepts h 0 8 (by decide)]; rfl
    _ = w := readFormat_eq w

/-- A row whose MASK is every bit accepts its MATCH only. -/
theorem eq_pattern_of_accepts {r : EncodingRow} (h : r.accepts w = true) (hm : r.mask = BitVec.allOnes 32) :
    r.pattern = w := by
  rw [← accepts_iff.mp h, hm, BitVec.and_allOnes]

theorem decodeAs_eq_ok {k : Kind} {i : Instr} : decodeAs k w = .ok i ↔ k.row.accepts w = true ∧ cutFields k w = i := by
  unfold decodeAs
  split <;> simp_all

theorem decodeCommand_ok {i : Instr} (h : decodeCommand w = .ok i) : i.isCommand = true ∧ encode i = w := by
  obtain ⟨ha, hd⟩ | ⟨ha, hd⟩ | ⟨ha, hd⟩ | ⟨ha, hd⟩ | ⟨ha, hd⟩ | ⟨-, -, -, -, -, hd⟩ := decodeCommand_cases w <;>
    rw [hd] at h <;> cases h
  · exact ⟨rfl, eq_pattern_of_accepts ha rfl⟩
  · exact ⟨rfl, encode_run_of_accepts ha⟩
  · exact ⟨rfl, encode_setupFwd_of_accepts ha⟩
  · exact ⟨rfl, eq_pattern_of_accepts ha rfl⟩
  · exact ⟨rfl, encode_read_of_accepts ha⟩

end

/-- Settles O3: every bit of an accepted word is a fixed bit of its row or a bit of a field that is cut from it. -/
theorem acceptedWordsReencode : Obligations.AcceptedWordsReencode := by
  unfold Obligations.AcceptedWordsReencode
  refine ⟨fun k w i h => ?_, fun w i h => decodeCommand_ok h⟩
  obtain ⟨hrow, rfl⟩ := decodeAs_eq_ok.mp h
  exact ⟨kind_cutFields k, encode_cutFields hrow⟩

/-! ### Reserved words (R93) -/

section
variable {w : Word}

/-- A word whose operation and low byte's high half are given has the low byte put together from them. -/
theorem lowByte_eq : w.extractLsb' 4 4 ++ w.extractLsb' 0 4 = w.extractLsb' 0 8 :=
  BitVec.extractLsb'_append_extractLsb'_eq_extractLsb' (by decide)

theorem highOperation_eq : w.extractLsb' 4 28 ++ w.extractLsb' 0 4 = w := by
  rw [BitVec.extractLsb'_append_extractLsb'_eq_extractLsb' (by decide)]
  exact BitVec.extractLsb'_eq_self

theorem nopRow_accepts_iff : nopRow.accepts w = true ↔ w.extractLsb' 0 4 = 0#4 ∧ w.extractLsb' 4 28 = 0#28 := by
  refine ⟨fun h => ⟨field_of_accepts h 0 4 (by decide), field_of_accepts h 4 28 (by decide)⟩, fun ⟨hop, hhigh⟩ => ?_⟩
  have hw : encode .nop = w := by rw [← highOperation_eq (w := w), hop, hhigh]; rfl
  exact hw ▸ row_accepts_encode .nop

theorem runRow_accepts_iff : runRow.accepts w = true ↔ w.extractLsb' 0 4 = 1#4 ∧ w.extractLsb' 4 4 = 0#4 := by
  refine ⟨fun h => ⟨field_of_accepts h 0 4 (by decide), field_of_accepts h 4 4 (by decide)⟩, fun ⟨hop, hhigh⟩ => ?_⟩
  have hlow : w.extractLsb' 0 8 = 0x01#8 := by rw [← lowByte_eq, hop, hhigh]; rfl
  have hw : encode (.run (countField w)) = w := by rw [encode, ← hlow]; exact runFormat_eq w
  exact hw ▸ row_accepts_encode (.run (countField w))

theorem setupFwdRow_accepts_iff :
    setupFwdRow.accepts w = true ↔ w.extractLsb' 0 4 = 2#4 ∧ w.extractLsb' 8 24 = 0#24 := by
  refine ⟨fun h => ⟨field_of_accepts h 0 4 (by decide), field_of_accepts h 8 24 (by decide)⟩, fun ⟨hop, hhigh⟩ => ?_⟩
  have hw : encode (.setupFwd (Stage.ofCode (w.extractLsb' 4 2)) (Stage.ofCode (w.extractLsb' 6 2))) = w := by
    rw [encode, code_ofCode, code_ofCode, ← hhigh, ← hop]
    exact setupFwdFormat_eq w
  exact hw ▸ row_accepts_encode (.setupFwd _ _)

theorem flushAllRow_accepts_iff :
    flushAllRow.accepts w = true ↔ w.extractLsb' 0 4 = 3#4 ∧ w.extractLsb' 4 28 = 0#28 := by
  refine ⟨fun h => ⟨field_of_accepts h 0 4 (by decide), field_of_accepts h 4 28 (by decide)⟩, fun ⟨hop, hhigh⟩ => ?_⟩
  have hw : encode .flushAll = w := by rw [← highOperation_eq (w := w), hop, hhigh]; rfl
  exact hw ▸ row_accepts_encode .flushAll

theorem readRow_accepts_iff : readRow.accepts w = true ↔
    w.extractLsb' 0 4 = 4#4 ∧ w.extractLsb' 4 4 = 0#4 ∧ w.extractLsb' 16 16 = 0#16 := by
  refine ⟨fun h => ⟨field_of_accepts h 0 4 (by decide), field_of_accepts h 4 4 (by decide),
    field_of_accepts h 16 16 (by decide)⟩, fun ⟨hop, hlow, hhigh⟩ => ?_⟩
  have hbyte : w.extractLsb' 0 8 = 0x04#8 := by rw [← lowByte_eq, hop, hlow]; rfl
  have hw : encode (.read (indexField w)) = w := by rw [encode, ← hbyte, ← hhigh]; exact readFormat_eq w
  exact hw ▸ row_accepts_encode (.read (indexField w))

/-- A word is reserved exactly when no command's row accepts it (R93). -/
theorem decodeCommand_error_iff : (∃ e, decodeCommand w = .error e) ↔
    nopRow.accepts w = false ∧ runRow.accepts w = false ∧ setupFwdRow.accepts w = false ∧ flushAllRow.accepts w = false ∧
      readRow.accepts w = false := by
  obtain ⟨ha, hd⟩ | ⟨ha, hd⟩ | ⟨ha, hd⟩ | ⟨ha, hd⟩ | ⟨ha, hd⟩ | ⟨hn, hr, hs, hf, hi, hd⟩ := decodeCommand_cases w
  case inr.inr.inr.inr.inr => simp [hd, hn, hr, hs, hf, hi]
  all_goals simp [hd, ha]

end

/-- Settles O14: a word is reserved when no row accepts it, and a row accepts it by its operation and the bits outside the
fields. -/
theorem reservedWordsAreThoseOfTheRule : Obligations.ReservedWordsAreThoseOfTheRule := by
  unfold Obligations.ReservedWordsAreThoseOfTheRule
  intro w
  simp only [decodeCommand_error_iff, Bool.eq_false_iff, ne_eq, nopRow_accepts_iff, runRow_accepts_iff,
    setupFwdRow_accepts_iff, flushAllRow_accepts_iff, readRow_accepts_iff]
  rw [← BitVec.toNat_inj (x := w.extractLsb' 0 4), ← BitVec.toNat_inj (x := w.extractLsb' 0 4),
    ← BitVec.toNat_inj (x := w.extractLsb' 0 4), ← BitVec.toNat_inj (x := w.extractLsb' 0 4),
    ← BitVec.toNat_inj (x := w.extractLsb' 0 4)]
  simp only [BitVec.toNat_ofNat, Nat.reducePow, Nat.reduceMod]
  generalize (w.extractLsb' 0 4).toNat = op
  obtain rfl | rfl | rfl | rfl | rfl | h : op = 0 ∨ op = 1 ∨ op = 2 ∨ op = 3 ∨ op = 4 ∨ 5 ≤ op := by omega
  case inr.inr.inr.inr.inr =>
    have hne : op ≠ 0 ∧ op ≠ 1 ∧ op ≠ 2 ∧ op ≠ 3 ∧ op ≠ 4 := by omega
    simp [h, hne]
  case inr.inr.inr.inr.inl => simp [imp_iff_not_or]
  all_goals simp
/-! ### Operands and worked words (R86, R94, R110) -/

/-- The descriptor of an instruction holds the `srcs`, `dsts` and `rra` that the pipeline uses. -/
theorem describe_operands {i : Instr} {d : Machine.Descriptor} (h : Machine.describe i = some d) :
    Machine.srcs i = d.srcs ∧ Machine.dsts i = d.dsts ∧ Machine.rraOf i = some d.rra := by
  cases i <;> cases h <;> exact ⟨rfl, rfl, rfl⟩

/-- Settles O5: each kind's descriptor, read off R86's table, and `describe_operands`. -/
theorem operandsOfTheKinds : Obligations.OperandsOfTheKinds := by
  unfold Obligations.OperandsOfTheKinds
  exact ⟨fun _ _ _ => ⟨rfl, rfl⟩, fun _ _ _ => ⟨rfl, rfl, rfl⟩, fun _ => rfl, fun _ _ => describe_operands⟩

/-- Settles O6: each worked word, run through the decoder of its space. -/
theorem workedWordsDecode : Obligations.WorkedWordsDecode := by
  unfold Obligations.WorkedWordsDecode
  exact ⟨rfl, rfl, rfl, rfl, rfl, rfl, rfl, rfl, rfl, rfl, rfl⟩

end Sys2Proof

namespace Sys2Proof.Machine

/-! ### Busy counts lowered and raised by a number of writes (R25) -/

/-- The busy table with each register's count lowered by `down` and then raised by `up`. -/
def adjusted (b : Vector Nat 32) (down up : RegId → Nat) : Vector Nat 32 :=
  Vector.ofFn fun i : Fin 32 => b[i] - down (BitVec.ofFin i) + up (BitVec.ofFin i)

/-- The count that a busy table holds for a register. -/
def countOf (b : Vector Nat 32) (r : RegId) : Nat := b[r.toNat]'r.isLt

theorem busyOf_eq (s : State) (r : RegId) : s.busyOf r = countOf s.busy r := rfl

@[simp] theorem countOf_adjusted (b : Vector Nat 32) (down up : RegId → Nat) (r : RegId) :
    countOf (adjusted b down up) r = countOf b r - down r + up r := by
  simp [countOf, adjusted]

/-- A table that holds the adjusted count of every register is the adjusted table. -/
theorem eq_adjusted {b c : Vector Nat 32} {down up : RegId → Nat}
    (h : ∀ r, countOf c r = countOf b r - down r + up r) : c = adjusted b down up :=
  busy_ext fun r => (h r).trans (countOf_adjusted b down up r).symm

theorem adjusted_none (b : Vector Nat 32) : adjusted b (fun _ => 0) (fun _ => 0) = b :=
  (eq_adjusted fun _ => rfl).symm

theorem adjusted_lowered (b : Vector Nat 32) (m n up : RegId → Nat) :
    adjusted (adjusted b m fun _ => 0) n up = adjusted b (fun r => m r + n r) up :=
  eq_adjusted fun r => by simp only [countOf_adjusted]; omega

/-- An update of busy counts alone, named by the counts it leaves. -/
theorem eq_of_busy_counts {s t : State} {down up : RegId → Nat} (hframe : t = { s with busy := t.busy })
    (h : ∀ r, t.busyOf r = s.busyOf r - down r + up r) : t = { s with busy := adjusted s.busy down up } :=
  hframe.trans (congrArg (fun b => { s with busy := b }) (eq_adjusted h))

theorem lowerBusy_eq (s : State) (rs : List RegId) :
    s.lowerBusy rs = { s with busy := adjusted s.busy (fun r => rs.count r) fun _ => 0 } :=
  eq_of_busy_counts (lowerBusy_frame s rs) (busyOf_lowerBusy s rs)

theorem raiseBusy_eq (s : State) (rs : List RegId) :
    s.raiseBusy rs = { s with busy := adjusted s.busy (fun _ => 0) fun r => rs.count r } :=
  eq_of_busy_counts (raiseBusy_frame s rs) (busyOf_raiseBusy s rs)

/-- The occurrences of `r` in the `dsts` of the records of a chain. -/
def writesIn (l : List (Option InFlight)) (r : RegId) : Nat :=
  ((l.filterMap id).flatMap fun I => dsts I.instr).count r

@[simp] theorem writesIn_nil (r : RegId) : writesIn [] r = 0 := rfl
@[simp] theorem writesIn_none (l : List (Option InFlight)) (r : RegId) : writesIn (none :: l) r = writesIn l r := rfl
@[simp] theorem writesIn_some (I : InFlight) (l : List (Option InFlight)) (r : RegId) :
    writesIn (some I :: l) r = (dsts I.instr).count r + writesIn l r := by
  simp [writesIn]
@[simp] theorem writesIn_append (l l' : List (Option InFlight)) (r : RegId) :
    writesIn (l ++ l') r = writesIn l r + writesIn l' r := by
  simp [writesIn]

theorem writesIn_cons (e : Option InFlight) (l : List (Option InFlight)) (r : RegId) :
    writesIn (e :: l) r = writesIn [e] r + writesIn l r :=
  writesIn_append [e] l r

/-- The occurrences of `r` in the `dsts` of the records that a queue holds. -/
def queueWrites (q : List QEntry) (r : RegId) : Nat :=
  ((q.filterMap QEntry.record?).flatMap fun I => dsts I.instr).count r

@[simp] theorem queueWrites_nil (r : RegId) : queueWrites [] r = 0 := rfl
@[simp] theorem queueWrites_bubble (q : List QEntry) (r : RegId) : queueWrites (.bubble :: q) r = queueWrites q r := rfl
@[simp] theorem queueWrites_held (I : InFlight) (q : List QEntry) (r : RegId) :
    queueWrites (.held I :: q) r = (dsts I.instr).count r + queueWrites q r := by
  simp [queueWrites, QEntry.record?]

theorem inFlightWrites_eq (s : State) (r : RegId) :
    s.inFlightWrites r = writesIn s.allSlots r + queueWrites s.queue r := by
  simp [State.inFlightWrites, State.records, State.slotRecords, writesIn, queueWrites]

/-- Killing a chain gives back every write of its records (R231, R233). -/
theorem killChain_eq (l : List (Option InFlight)) (s : State) :
    killChain l s = { s with busy := adjusted s.busy (writesIn l) fun _ => 0 } := by
  refine eq_of_busy_counts (killChain_frame s l) fun r => ?_
  show (killChain l s).busyOf r = s.busyOf r - writesIn l r
  induction l with
  | nil => rfl
  | cons e l ih =>
    cases e with
    | none => exact ih
    | some K =>
      show ((killChain l s).lowerBusy (dsts K.instr)).busyOf r = _
      rw [busyOf_lowerBusy, ih, writesIn_some]
      omega

/-- Killing a queue gives back every write of its records (R231, R233). -/
theorem killQueue_eq (q : List QEntry) (s : State) :
    q.foldl killEntry s = { s with busy := adjusted s.busy (queueWrites q) fun _ => 0 } := by
  refine eq_of_busy_counts (killQueue_frame s q) fun r => ?_
  show (q.foldl killEntry s).busyOf r = s.busyOf r - queueWrites q r
  induction q generalizing s with
  | nil => rfl
  | cons e q ih =>
    cases e with
    | bubble => exact ih s
    | held K =>
      show (q.foldl killEntry (s.lowerBusy (dsts K.instr))).busyOf r = _
      rw [ih, busyOf_lowerBusy, queueWrites_held]
      omega

/-- A redirection, said as an update (R231). -/
theorem redirect_eq (t : Word) (s : State) : redirect t s =
    { s with pc := t, slotD := s.slotD.map fun _ => none, queue := []
             busy := adjusted s.busy (fun r => writesIn s.slotD r + queueWrites s.queue r) fun _ => 0 } := by
  unfold redirect
  rw [killChain_eq, killQueue_eq]
  simp only [adjusted_lowered]

/-! ### Writeback and decode, run (R111, R114, R152) -/

/-- The register file after every record of a list of destinations has been written with one value. -/
def regsWith (rs : List RegId) (v : Word) (regs : Vector Word 32) : Vector Word 32 :=
  rs.foldl (fun x r => x.set r.toNat v r.isLt) regs

theorem setXs_eq (s : State) (rs : List RegId) (v : Word) : s.setXs rs v = { s with regs := regsWith rs v s.regs } := by
  induction rs generalizing s with
  | nil => rfl
  | cons r rs ih => exact ih (s.setX r v)

/-- The register file after a chain of writeback has run, exit slot first. -/
def writtenBack : List (Option InFlight) → Vector Word 32 → Vector Word 32
  | [], regs => regs
  | none :: older, regs => writtenBack older regs
  | some I :: older, regs => regsWith (dsts I.instr) I.res (writtenBack older regs)

theorem runChain_writeback (l : List (Option InFlight)) (s : State) :
    runChain .writeback l s = .ok ⟨l, { s with regs := writtenBack l s.regs }, none⟩ := by
  induction l with
  | nil => rfl
  | cons e older ih =>
    cases e with
    | none => simp only [runChain, ih]; rfl
    | some I => simp only [runChain, ih, behaviour, behW, setXs_eq]; rfl

theorem runChain_decode (l : List (Option InFlight)) (s : State) : runChain .decode l s = .ok ⟨l, s, none⟩ := by
  induction l with
  | nil => rfl
  | cons e older ih =>
    cases e with
    | none => simp only [runChain, ih]
    | some I => simp only [runChain, ih, behaviour, behD]

/-! ### Memory, run (R113, R152) -/

/-- The data memory after a record's behM: an sw stores. -/
def storeOf (I : InFlight) (m : Memory) : Memory :=
  match I.instr with
  | .sw _ _ _ => Memory.writeAt m I.ea.toNat I.sdata
  | _ => m

/-- A record after its behM: an lw has the Word of its address in `res`. -/
def loadFrom (m : Memory) (I : InFlight) : InFlight :=
  match I.instr with
  | .lw _ _ _ => { I with res := Memory.readAt m I.ea.toNat }
  | _ => I

/-- A record that accesses memory at an address that is not 4-aligned (R64). -/
def misaligned (I : InFlight) : Bool :=
  match I.instr with
  | .lw _ _ _ => !wordAligned I.ea
  | .sw _ _ _ => !wordAligned I.ea
  | _ => false

theorem behM_eq (s : State) (I : InFlight) :
    behM s I = if misaligned I = true then .error .misalignedData
      else .ok ⟨loadFrom s.dmem I, { s with dmem := storeOf I s.dmem }, none⟩ := by
  unfold behM misaligned loadFrom storeOf
  cases hi : I.instr with
  | lw rt rs off => cases h : wordAligned I.ea <;> simp [lwM, h, hi, Except.map, State.memRead]
  | sw rt rs off => cases h : wordAligned I.ea <;> simp [swM, h, Except.map, State.memWrite]
  | _ => rfl

/-- The data memory after the stores of a chain, exit slot first. -/
def stored : List (Option InFlight) → Memory → Memory
  | [], m => m
  | none :: older, m => stored older m
  | some I :: older, m => storeOf I (stored older m)

/-- A chain of memory after its behaviours: each load sees the stores of the records older than it. -/
def loaded : List (Option InFlight) → Memory → List (Option InFlight)
  | [], _ => []
  | e :: older, m => e.map (loadFrom (stored older m)) :: loaded older m

/-- Some record of the chain is misaligned. -/
def anyMisaligned (l : List (Option InFlight)) : Bool := l.any fun e => e.any misaligned

theorem anyMisaligned_iff (l : List (Option InFlight)) :
    anyMisaligned l = true ↔ ∃ I, some I ∈ l ∧ misaligned I = true := by
  simp only [anyMisaligned, List.any_eq_true, Option.any_eq_true]
  constructor
  · rintro ⟨e, he, I, rfl, hI⟩
    exact ⟨I, he, hI⟩
  · rintro ⟨I, he, hI⟩
    exact ⟨some I, he, I, rfl, hI⟩

theorem runChain_memory (l : List (Option InFlight)) (s : State) :
    runChain .memory l s = if anyMisaligned l = true then .error .misalignedData
      else .ok ⟨loaded l s.dmem, { s with dmem := stored l s.dmem }, none⟩ := by
  induction l with
  | nil => rfl
  | cons e older ih =>
    simp only [runChain, ih]
    by_cases hold : anyMisaligned older = true
    · have hcons : anyMisaligned (e :: older) = true := by
        simp only [anyMisaligned, List.any_cons] at hold ⊢
        rw [hold, Bool.or_true]
      rw [if_pos hold, if_pos hcons]
    · have hcons : anyMisaligned (e :: older) = e.any misaligned := by
        simp only [anyMisaligned, List.any_cons] at hold ⊢
        rw [Bool.eq_false_iff.mpr hold, Bool.or_false]
      rw [if_neg hold, hcons]
      cases e with
      | none => rfl
      | some I =>
        simp only [behaviour, behM_eq, Option.any_some]
        by_cases hI : misaligned I = true
        · rw [if_pos hI, if_pos hI]
        · rw [if_neg hI, if_neg hI]
          rfl

/-! ### Execute, run (R112, R152) -/

/-- A record after its behE, given the register file it reads. -/
def computed (regs : Vector Word 32) (I : InFlight) : InFlight := (behE { State.reset with regs := regs } I).record

/-- The target that a record's behE returns, if it is a jump. -/
def targetOf (I : InFlight) : Option Word := (behE State.reset I).target

theorem behE_eq (s : State) (I : InFlight) : behE s I = ⟨computed s.regs I, s, targetOf I⟩ := by
  unfold computed targetOf behE
  cases I.instr <;> rfl

theorem computed_identity (regs : Vector Word 32) (I : InFlight) : (computed regs I).identity = I.identity :=
  behE_identity _ I

/-- The target of the oldest jump of a chain. -/
def redirectTarget : List (Option InFlight) → Option Word
  | [] => none
  | e :: older => (redirectTarget older).or (e.bind targetOf)

/-- A chain of execute after its behaviours: a record behind a redirecting one is gone. -/
def executed (regs : Vector Word 32) : List (Option InFlight) → List (Option InFlight)
  | [] => []
  | e :: older => (if (redirectTarget older).isSome then none else e.map (computed regs)) :: executed regs older

/-- The records of a chain of execute that stand behind a redirecting one. -/
def killedIn : List (Option InFlight) → List (Option InFlight)
  | [] => []
  | e :: older => (if (redirectTarget older).isSome then e else none) :: killedIn older

theorem runChain_execute_killChain (l : List (Option InFlight)) (s : State) :
    runChain .execute l s = .ok ⟨executed s.regs l, killChain (killedIn l) s, redirectTarget l⟩ := by
  induction l with
  | nil => rfl
  | cons e older ih =>
    simp only [runChain, ih, executed, killedIn, redirectTarget]
    cases ht : redirectTarget older with
    | some t => rfl
    | none =>
      cases e with
      | none => rfl
      | some I =>
        have hregs : (killChain (killedIn older) s).regs = s.regs := by rw [killChain_frame]
        simp only [behaviour, behE_eq, hregs]
        rfl

theorem runChain_execute (l : List (Option InFlight)) (s : State) :
    runChain .execute l s = .ok ⟨executed s.regs l,
      { s with busy := adjusted s.busy (writesIn (killedIn l)) fun _ => 0 }, redirectTarget l⟩ := by
  rw [runChain_execute_killChain, killChain_eq]

/-! ### A cycle in closed form (R171 to R177) -/

section
variable (found : Option Instr) (s : State)

/-- The record that step 1 makes of what it finds (R171). -/
def State.fetched : Option InFlight :=
  if s.queue.isEmpty then found.map fun i => InFlight.fresh i s.pc else none

/-- The cycle redirects: a jump stands in execute (R230). -/
def State.redirects : Bool := (redirectTarget s.slotE).isSome

/-- The fetched record that step 4 gets: a redirection discards it (R231). -/
def State.issued : Option InFlight := if s.redirects then none else s.fetched found

/-- `pc` after the cycle: the target of the oldest jump, or past the fetched instruction (R171, R231). -/
def State.nextPc : Word := (redirectTarget s.slotE).getD (if (s.fetched found).isSome then s.pc + 4#32 else s.pc)

/-- The register file as this cycle's writeback leaves it (R172). -/
def State.regsBack : Vector Word 32 := writtenBack s.slotW s.regs

/-- The slots of decode, run: empty after a redirection. -/
def State.ranD : List (Option InFlight) := if s.redirects then s.slotD.map fun _ => none else s.slotD
/-- The slots of execute, run. -/
def State.ranE : List (Option InFlight) := executed s.regsBack s.slotE
/-- The slots of memory, run. -/
def State.ranM : List (Option InFlight) := loaded s.slotM s.dmem

/-- Every slot after its behaviour has run and before the shift, in the order of positions. -/
def State.ran : List (Option InFlight) := s.ranD ++ s.ranE ++ s.ranM ++ s.slotW

/-- The queue that step 4 finds: empty after a redirection (R231). -/
def State.keptQueue : List QEntry := if s.redirects then [] else s.queue

/-- The writes to a register that the redirection kills (R231, R232). -/
def State.killedWrites (r : RegId) : Nat :=
  writesIn (killedIn s.slotE) r + if s.redirects then writesIn s.slotD r + queueWrites s.queue r else 0

/-- The records in transit after step 2 (R38, R172). -/
def State.transit : Transit := ⟨s.issued found, exitOf s.ranD, exitOf s.ranE, exitOf s.ranM, exitOf s.slotW⟩

/-- The state after step 2 (R172). -/
def State.drained : State :=
  { s with
    slotD := shiftChain s.ranD, slotE := shiftChain s.ranE, slotM := shiftChain s.ranM, slotW := shiftChain s.slotW
    queue := s.keptQueue, busy := adjusted s.busy s.killedWrites fun _ => 0, pc := s.nextPc found
    regs := s.regsBack, dmem := stored s.slotM s.dmem }

end

theorem fetchStep_eq (found : Option Instr) (s : State) :
    fetchStep found s =
      (s.fetched found, { s with pc := if (s.fetched found).isSome then s.pc + 4#32 else s.pc }) := by
  unfold fetchStep State.fetched
  cases s.queue.isEmpty <;> cases found <;> rfl

theorem doExecute_writeback (s : State) : doExecute .writeback s =
    .ok ⟨exitOf s.slotW, none, { s with slotW := shiftChain s.slotW, regs := s.regsBack }⟩ := by
  rw [doExecute, slots_writeback, runChain_writeback]
  rfl

theorem doExecute_memory (s : State) : doExecute .memory s =
    if anyMisaligned s.slotM = true then .error .misalignedData
    else .ok ⟨exitOf s.ranM, none, { s with slotM := shiftChain s.ranM, dmem := stored s.slotM s.dmem }⟩ := by
  rw [doExecute, slots_memory, runChain_memory]
  cases anyMisaligned s.slotM <;> rfl

theorem doExecute_execute (s : State) : doExecute .execute s =
    .ok ⟨exitOf (executed s.regs s.slotE), redirectTarget s.slotE,
      { s with slotE := shiftChain (executed s.regs s.slotE)
               busy := adjusted s.busy (writesIn (killedIn s.slotE)) fun _ => 0 }⟩ := by
  rw [doExecute, slots_execute, runChain_execute]
  rfl

theorem doExecute_decode (s : State) :
    doExecute .decode s = .ok ⟨exitOf s.slotD, none, { s with slotD := shiftChain s.slotD }⟩ := by
  rw [doExecute, slots_decode, runChain_decode]
  rfl

theorem ok_bind {α β : Type} (a : α) (f : α → Except FaultKind β) : (Except.ok a >>= f) = f a := rfl

theorem error_bind {α β : Type} (k : FaultKind) (f : α → Except FaultKind β) : (Except.error k >>= f) = .error k := rfl

/-- The redirection and the drain of decode that follows it, once execute has run (R172, R231). -/
theorem redirectStep_eq (found : Option Instr) (s u : State) (h : u.slotD = s.slotD) (hq : u.queue = s.queue)
    (hb : u.busy = adjusted s.busy (writesIn (killedIn s.slotE)) fun _ => 0)
    (hpc : u.pc = if (s.fetched found).isSome then s.pc + 4#32 else s.pc) :
    redirectStep (redirectTarget s.slotE) (s.fetched found) u =
      (s.issued found,
        { u with pc := s.nextPc found, slotD := s.ranD, queue := s.keptQueue
                 busy := adjusted s.busy s.killedWrites fun _ => 0 }) := by
  unfold State.issued State.nextPc State.ranD State.keptQueue State.killedWrites State.redirects
  cases redirectTarget s.slotE with
  | none =>
    simp only [redirectStep, Option.isSome_none, Bool.false_eq_true, if_false, Option.getD_none, Nat.add_zero, ← hpc, ← h,
      ← hq, ← hb]
  | some t =>
    simp only [redirectStep, Option.isSome_some, if_true, Option.getD_some, redirect_eq, h, hq, hb, adjusted_lowered]

/-- Step 2 in closed form: it faults exactly on a misaligned access. -/
theorem drainStep_eq (found : Option Instr) (s : State) :
    drainStep (fetchStep found s).1 (fetchStep found s).2 =
      if anyMisaligned s.slotM = true then .error .misalignedData else .ok (s.transit found, s.drained found) := by
  rw [fetchStep_eq]
  simp only [drainStep, doExecute_writeback, doExecute_memory, ok_bind]
  cases anyMisaligned s.slotM with
  | true => rfl
  | false =>
    simp only [Bool.false_eq_true, if_false, ok_bind, doExecute_execute]
    rw [redirectStep_eq found s]
    · simp only [doExecute_decode]
      rfl
    all_goals rfl

/-! Steps 3 and 4. -/

/-- The state after step 3 (R173). -/
def State.retired (found : Option Instr) (s : State) : State := retireStep (exitOf s.slotW) (s.drained found)

/-- The bubbles of step 4 (R207); the search for them never fails. -/
def State.bubbles (found : Option Instr) (s : State) : Nat :=
  match s.issued found with
  | some J => (stallCount (s.transit found) (s.retired found) J.instr).toOption.getD 0
  | none => 0

/-- The queue after step 4 (R174). -/
def State.issuedQueue (found : Option Instr) (s : State) : List QEntry :=
  match s.issued found with
  | some J => s.keptQueue ++ List.replicate (s.bubbles found) QEntry.bubble ++ [QEntry.held J]
  | none => if s.keptQueue.isEmpty then [.bubble] else s.keptQueue

theorem stallCount_ok (t : Transit) (s : State) (J : Instr) : ∃ k, stallCount t s J = .ok k := by
  cases h : stallCount t s J with
  | ok k => exact ⟨k, rfl⟩
  | error f =>
    obtain ⟨-, hnone⟩ := searchStall_error h
    have hall := hnone s.lat.total (by omega)
    simp [allViable, viable] at hall

/-- The writes to a register of what one slot holds. -/
def slotWrites (e : Option InFlight) (r : RegId) : Nat := writesIn [e] r

@[simp] theorem slotWrites_none : slotWrites none = fun _ => 0 := rfl
@[simp] theorem slotWrites_some (I : InFlight) : slotWrites (some I) = fun r => (dsts I.instr).count r := by
  funext r
  simp [slotWrites]

/-- The state after a cycle that completes, in closed form (R177). -/
def State.completed (found : Option Instr) (s : State) : State :=
  { s with
    slotD := ((s.issuedQueue found).head?.map QEntry.toSlot).join :: s.ranD.dropLast
    slotE := exitOf s.ranD :: s.ranE.dropLast
    slotM := exitOf s.ranE :: s.ranM.dropLast
    slotW := exitOf s.ranM :: s.slotW.dropLast
    queue := (s.issuedQueue found).tail
    busy := adjusted s.busy (fun r => s.killedWrites r + slotWrites (exitOf s.slotW) r) (slotWrites (s.issued found))
    pc := s.nextPc found
    committed := if (exitOf s.slotW).isSome then s.committed + 1#64 else s.committed
    stalls := if (exitOf s.slotW).isSome then s.stalls else s.stalls + 1#64
    hazardBubbles := s.hazardBubbles + BitVec.ofNat 64 (s.bubbles found)
    started := true
    trace := s.trace ++ ((exitOf s.slotW).map (traceRecord { s with regs := s.regsBack })).toList
    regs := s.regsBack
    dmem := stored s.slotM s.dmem }

theorem retired_eq (found : Option Instr) (s : State) : s.retired found =
    { s.drained found with
      busy := adjusted s.busy (fun r => s.killedWrites r + slotWrites (exitOf s.slotW) r) fun _ => 0
      committed := if (exitOf s.slotW).isSome then s.committed + 1#64 else s.committed
      stalls := if (exitOf s.slotW).isSome then s.stalls else s.stalls + 1#64
      trace := s.trace ++ ((exitOf s.slotW).map (traceRecord { s with regs := s.regsBack })).toList } := by
  unfold State.retired
  cases exitOf s.slotW with
  | none => simp only [retireStep, Option.map_none, Option.toList_none, List.append_nil]; rfl
  | some I =>
    simp only [retireStep, lowerBusy_eq, State.drained, adjusted_lowered, slotWrites_some]
    rfl

theorem issueStep_eq (found : Option Instr) (s : State) : issueStep (s.transit found) (s.retired found) =
    .ok { s.retired found with
      queue := s.issuedQueue found
      hazardBubbles := s.hazardBubbles + BitVec.ofNat 64 (s.bubbles found)
      busy := adjusted (s.retired found).busy (fun _ => 0) (slotWrites (s.issued found)) } := by
  have hqueue : (s.retired found).queue = s.keptQueue := by rw [retired_eq]; rfl
  have hbubbles : (s.retired found).hazardBubbles = s.hazardBubbles := by rw [retired_eq]; rfl
  have hfetched : (s.transit found).fetched = s.issued found := rfl
  unfold issueStep State.issuedQueue State.bubbles
  rw [hfetched, hqueue, hbubbles]
  cases s.issued found with
  | some J =>
    obtain ⟨k, hk⟩ := stallCount_ok (s.transit found) (s.retired found) J.instr
    simp only [hk, raiseBusy_eq, Except.toOption, Option.getD_some, slotWrites_some]
  | none =>
    simp only [slotWrites_none, adjusted_none, BitVec.add_zero]
    rw [← hqueue, ← hbubbles]
    cases (s.retired found).queue.isEmpty <;> rfl

/-- Every stage has a slot. -/
def State.chained (s : State) : Bool :=
  !s.slotD.isEmpty && !s.slotE.isEmpty && !s.slotM.isEmpty && !s.slotW.isEmpty

theorem load_eq (st : Stage) (e : Option InFlight) (s : State) {l : List (Option InFlight)}
    (h : s.slots st = shiftChain l) :
    load st e s = if l.isEmpty then .error .doubleLoad else .ok (s.setSlots st (e :: l.dropLast)) := by
  unfold load
  rw [h]
  cases l <;> rfl

@[simp] theorem executed_length (regs : Vector Word 32) (l : List (Option InFlight)) :
    (executed regs l).length = l.length := by
  induction l with
  | nil => rfl
  | cons e older ih => simp [executed, ih]

@[simp] theorem loaded_length (l : List (Option InFlight)) (m : Memory) : (loaded l m).length = l.length := by
  induction l with
  | nil => rfl
  | cons e older ih => simp [loaded, ih]

@[simp] theorem ranD_length (s : State) : s.ranD.length = s.slotD.length := by
  unfold State.ranD
  split <;> simp
@[simp] theorem ranE_length (s : State) : s.ranE.length = s.slotE.length := executed_length _ _
@[simp] theorem ranM_length (s : State) : s.ranM.length = s.slotM.length := loaded_length _ _

theorem isEmpty_eq_of_length {α β : Type} {l : List α} {m : List β} (h : l.length = m.length) : l.isEmpty = m.isEmpty := by
  cases l <;> cases m <;> simp_all

/-- Step 5 in closed form: it fails when a stage has no slot (R175). -/
theorem loadStep_eq {t : Transit} {q : State} {d e m w : List (Option InFlight)} (hd : q.slotD = shiftChain d)
    (he : q.slotE = shiftChain e) (hm : q.slotM = shiftChain m) (hw : q.slotW = shiftChain w) :
    loadStep t q =
      if d.isEmpty || e.isEmpty || m.isEmpty || w.isEmpty then .error .doubleLoad
      else .ok { q with
        slotD := (q.queue.head?.map QEntry.toSlot).join :: d.dropLast, slotE := t.outD :: e.dropLast
        slotM := t.outE :: m.dropLast, slotW := t.outM :: w.dropLast, queue := q.queue.tail } := by
  unfold loadStep
  rw [load_eq .writeback _ _ hw]
  cases w.isEmpty with
  | true => simp [error_bind]
  | false =>
    rw [Bool.or_false, if_neg (by decide), ok_bind, load_eq .memory (l := m)]
    case h => exact hm
    cases m.isEmpty with
    | true => simp [error_bind]
    | false =>
      rw [Bool.or_false, if_neg (by decide), ok_bind, load_eq .execute (l := e)]
      case h => exact he
      cases e.isEmpty with
      | true => simp [error_bind]
      | false =>
        rw [Bool.or_false, if_neg (by decide), ok_bind, load_eq .decode (l := d)]
        case h => exact hd
        rfl

/-- The five steps in closed form: the completed state, MisalignedData, or, where a stage has no slot, DoubleLoad (R177, R282,
R287). -/
theorem cycleTry_eq (found : Option Instr) (s : State) : cycleTry found s =
    if anyMisaligned s.slotM = true then .error .misalignedData
    else if s.chained = true then .ok (s.completed found) else .error .doubleLoad := by
  have hchained : (s.ranD.isEmpty || s.ranE.isEmpty || s.ranM.isEmpty || s.slotW.isEmpty) = !s.chained := by
    rw [isEmpty_eq_of_length (ranD_length s), isEmpty_eq_of_length (ranE_length s), isEmpty_eq_of_length (ranM_length s)]
    simp [State.chained, Bool.not_and]
  unfold cycleTry
  simp only [drainStep_eq]
  cases anyMisaligned s.slotM with
  | true => rfl
  | false =>
    simp only [Bool.false_eq_true, if_false, ok_bind]
    rw [show retireStep (s.transit found).outW (s.drained found) = s.retired found from rfl, issueStep_eq, ok_bind,
      loadStep_eq (d := s.ranD) (e := s.ranE) (m := s.ranM) (w := s.slotW), hchained]
    · cases s.chained with
      | false => rfl
      | true => 
        simp only [Bool.not_true, Bool.false_eq_true, if_false, if_true, ok_bind, retired_eq, adjusted_lowered]
        rfl
    all_goals rw [retired_eq]; rfl

end Sys2Proof.Machine

namespace Sys2Proof.Machine

/-! ### When a cycle completes -/

theorem latencyOk_iff {n : Nat} : latencyOk n = true ↔ 1 ≤ n ∧ n ≤ 255 := by
  rw [latencyOk, Bool.and_eq_true, decide_eq_true_iff, decide_eq_true_iff]
  rfl

theorem latencies_wf_iff {l : Latencies} :
    l.wf = true ↔ (1 ≤ l.d ∧ l.d ≤ 255) ∧ (1 ≤ l.e ∧ l.e ≤ 255) ∧ (1 ≤ l.m ∧ l.m ≤ 255) ∧ 1 ≤ l.w ∧ l.w ≤ 255 := by
  simp only [Latencies.wf, Bool.and_eq_true, latencyOk_iff, and_assoc]

theorem chained_iff {s : State} :
    s.chained = true ↔ s.slotD ≠ [] ∧ s.slotE ≠ [] ∧ s.slotM ≠ [] ∧ s.slotW ≠ [] := by
  simp [State.chained, and_assoc]

/-- Every latency is at least 1 (R6). -/
theorem State.Sized.positive {s : State} (h : s.Sized) : 1 ≤ s.lat.d ∧ 1 ≤ s.lat.e ∧ 1 ≤ s.lat.m ∧ 1 ≤ s.lat.w := by
  obtain ⟨⟨hd, -⟩, ⟨he, -⟩, ⟨hm, -⟩, hw, -⟩ := latencies_wf_iff.mp h.latencies
  exact ⟨hd, he, hm, hw⟩

theorem State.Sized.chained {s : State} (h : s.Sized) : s.chained = true := by
  obtain ⟨hd, he, hm, hw⟩ := h.positive
  rw [← h.decode] at hd
  rw [← h.execute] at he
  rw [← h.memory] at hm
  rw [← h.writeback] at hw
  exact chained_iff.mpr ⟨List.ne_nil_of_length_pos hd, List.ne_nil_of_length_pos he, List.ne_nil_of_length_pos hm,
    List.ne_nil_of_length_pos hw⟩

theorem State.Sized.allSlots_length {s : State} (h : s.Sized) : s.allSlots.length = s.lat.total := by
  simp [State.allSlots, Latencies.total, h.decode, h.execute, h.memory, h.writeback]
  omega

/-- A cycle of a PSC with its slot chains completes, or meets a misaligned access (R287). -/
theorem cycleWith_of_sized (found : Option Instr) {s : State} (h : s.Sized) (hf : s.fault = 0#4) :
    cycleWith found s = if anyMisaligned s.slotM = true then { s with fault := 7#4 } else s.completed found := by
  rw [cycleWith, if_pos hf, cycleTry_eq, if_pos h.chained]
  cases anyMisaligned s.slotM with
  | true => exact enterFaulted_of_fault_eq_zero .misalignedData hf
  | false => rfl

theorem cycleTry_ok_completed {found : Option Instr} {s t : State} (h : cycleTry found s = .ok t) :
    t = s.completed found ∧ s.chained = true ∧ anyMisaligned s.slotM = false := by
  rw [cycleTry_eq] at h
  split at h
  · cases h
  next ha =>
    split at h
    next hc => cases h; exact ⟨rfl, hc, Bool.eq_false_iff.mpr ha⟩
    · cases h

/-- A cycle that ends without a fault leaves the completed state. -/
theorem cycleWith_eq_completed {found : Option Instr} {s : State} (h : (cycleWith found s).fault = 0#4) :
    cycleWith found s = s.completed found ∧ s.chained = true ∧ anyMisaligned s.slotM = false :=
  cycleTry_ok_completed (cycleTry_of_fault_eq_zero h)

/-! ### Jumps (R122, R230) -/

theorem targetOf_eq_some {I : InFlight} {t : Word} :
    targetOf I = some t ↔ ∃ index26, I.instr = .j index26 ∧ t = jumpTarget I.addr index26 := by
  unfold targetOf behE
  cases hi : I.instr <;> simp [jE, eq_comm]

theorem targetOf_eq_none {I : InFlight} : targetOf I = none ↔ ∀ index26, I.instr ≠ .j index26 := by
  unfold targetOf behE
  cases hi : I.instr <;> simp

theorem redirectTarget_eq_none {l : List (Option InFlight)} :
    redirectTarget l = none ↔ ∀ I index26, some I ∈ l → I.instr ≠ .j index26 := by
  induction l with
  | nil => simp [redirectTarget]
  | cons e older ih =>
    cases e with
    | none => simp [redirectTarget, ih]
    | some K =>
      simp only [redirectTarget, Option.or_eq_none_iff, ih, Option.bind_some, targetOf_eq_none, List.mem_cons,
        Option.some.injEq]
      constructor
      · rintro ⟨hold, hK⟩ I index (rfl | hI)
        · exact hK index
        · exact hold I index hI
      · intro h
        exact ⟨fun I index hI => h I index (.inr hI), fun index => h K index (.inl rfl)⟩

theorem redirects_eq_false {s : State} :
    s.redirects = false ↔ ∀ I index26, some I ∈ s.slotE → I.instr ≠ .j index26 := by
  rw [State.redirects, Option.isSome_eq_false_iff, Option.isNone_iff_eq_none, redirectTarget_eq_none]

theorem redirects_eq_true {s : State} :
    s.redirects = true ↔ ∃ I index26, some I ∈ s.slotE ∧ I.instr = .j index26 := by
  rw [← Bool.not_eq_false, redirects_eq_false]
  simp

/-- The oldest jump of a chain gives the target (R152, R231). -/
theorem redirectTarget_oldest {younger older : List (Option InFlight)} {R : InFlight} {index26 : BitVec 26}
    (hR : R.instr = .j index26) (hold : ∀ I index, some I ∈ older → I.instr ≠ .j index) :
    redirectTarget (younger ++ some R :: older) = some (jumpTarget R.addr index26) := by
  induction younger with
  | nil =>
    simp only [List.nil_append, redirectTarget, redirectTarget_eq_none.mpr hold, Option.bind_some, Option.none_or]
    exact targetOf_eq_some.mpr ⟨index26, hR, rfl⟩
  | cons e younger ih => simp [redirectTarget, ih]

/-! ### The records of a chain, run -/

theorem executed_get (regs : Vector Word 32) (l : List (Option InFlight)) (n : Nat) :
    (executed regs l)[n]? =
      l[n]?.map fun e => if (redirectTarget (l.drop (n + 1))).isSome then none else e.map (computed regs) := by
  induction l generalizing n with
  | nil => rfl
  | cons e older ih =>
    cases n with
    | zero => rfl
    | succ n => exact ih n

theorem loaded_get (l : List (Option InFlight)) (m : Memory) (n : Nat) :
    (loaded l m)[n]? = l[n]?.map fun e => e.map (loadFrom (stored (l.drop (n + 1)) m)) := by
  induction l generalizing n with
  | nil => rfl
  | cons e older ih =>
    cases n with
    | zero => rfl
    | succ n => exact ih n

theorem executed_of_no_jump (regs : Vector Word 32) {l : List (Option InFlight)} (h : redirectTarget l = none) :
    executed regs l = l.map (Option.map (computed regs)) := by
  induction l with
  | nil => rfl
  | cons e older ih =>
    have hold : redirectTarget older = none := (Option.or_eq_none_iff.mp h).1
    simp [executed, hold, ih hold]

theorem loadFrom_identity (m : Memory) (I : InFlight) : (loadFrom m I).identity = I.identity := by
  unfold loadFrom
  split <;> rfl

/-! ### Positions after a cycle (R11, R158) -/

theorem dropLast_append_exitOf {l : List (Option InFlight)} (h : l ≠ []) : l.dropLast ++ [exitOf l] = l := by
  rw [exitOf, List.getLast?_eq_some_getLast h, Option.join_some]
  exact List.dropLast_append_getLast h

/-- What step 5 loads into decode. -/
def State.entered (found : Option Instr) (s : State) : Option InFlight :=
  ((s.issuedQueue found).head?.map QEntry.toSlot).join

theorem completed_allSlots (found : Option Instr) {s : State} (h : s.chained = true) :
    (s.completed found).allSlots = s.entered found :: s.ran.dropLast := by
  obtain ⟨hd, he, hm, hw⟩ := chained_iff.mp h
  have hd' : s.ranD ≠ [] := List.ne_nil_of_length_pos (by rw [ranD_length]; exact List.length_pos_iff.mpr hd)
  have he' : s.ranE ≠ [] := List.ne_nil_of_length_pos (by rw [ranE_length]; exact List.length_pos_iff.mpr he)
  have hm' : s.ranM ≠ [] := List.ne_nil_of_length_pos (by rw [ranM_length]; exact List.length_pos_iff.mpr hm)
  have hran : s.ran.dropLast = s.ranD ++ s.ranE ++ s.ranM ++ s.slotW.dropLast := List.dropLast_append_of_ne_nil hw
  rw [hran]
  conv_rhs => rw [← dropLast_append_exitOf hd', ← dropLast_append_exitOf he', ← dropLast_append_exitOf hm']
  simp [State.allSlots, State.completed, State.entered]

@[simp] theorem ran_length (s : State) : s.ran.length = s.allSlots.length := by
  simp [State.ran, State.allSlots]

theorem completed_recordAt_zero (found : Option Instr) {s : State} (h : s.chained = true) :
    (s.completed found).recordAt 0 = s.entered found := by
  rw [State.recordAt, completed_allSlots found h]
  rfl

/-- Every slot moves on by one position: what ran at `q` stands at `q + 1` (R158). -/
theorem completed_recordAt_succ (found : Option Instr) {s : State} (h : s.chained = true) {q : Nat}
    (hq : q + 1 < s.allSlots.length) : (s.completed found).recordAt (q + 1) = s.ran[q]?.join := by
  rw [State.recordAt, completed_allSlots found h, List.getElem?_cons_succ, List.getElem?_dropLast, ran_length,
    if_pos (by omega)]

theorem recordAt_eq_none {s : State} {q : Nat} (hq : s.allSlots.length ≤ q) : s.recordAt q = none := by
  rw [State.recordAt, List.getElem?_eq_none hq]
  rfl

theorem completed_allSlots_length (found : Option Instr) {s : State} (h : s.chained = true) :
    (s.completed found).allSlots.length = s.allSlots.length := by
  obtain ⟨-, -, -, hw⟩ := chained_iff.mp h
  have := List.length_pos_iff.mpr hw
  rw [completed_allSlots found h, List.length_cons, List.length_dropLast, ran_length]
  simp only [State.allSlots, List.length_append]
  omega

/-- Where a position falls: in the chain of one of the four stages (R11). -/
theorem get_of_chains {α : Type} (d e m w : List α) (q : Nat) :
    (d ++ e ++ m ++ w)[q]? =
      if q < d.length then d[q]?
      else if q < d.length + e.length then e[q - d.length]?
      else if q < d.length + e.length + m.length then m[q - d.length - e.length]?
      else w[q - d.length - e.length - m.length]? := by
  grind

section
variable {s : State} {n : Nat}

theorem recordAt_decode (h : s.Sized) (hn : n < s.lat.d) : s.recordAt n = s.slotD[n]?.join := by
  rw [State.recordAt, State.allSlots, get_of_chains, h.decode, if_pos hn]

theorem recordAt_execute (h : s.Sized) (hn : n < s.lat.e) : s.recordAt (s.lat.d + n) = s.slotE[n]?.join := by
  rw [State.recordAt, State.allSlots, get_of_chains, h.decode, h.execute, if_neg (by omega), if_pos (by omega),
    Nat.add_sub_cancel_left]

theorem recordAt_memory (h : s.Sized) (hn : n < s.lat.m) :
    s.recordAt (s.lat.d + s.lat.e + n) = s.slotM[n]?.join := by
  rw [State.recordAt, State.allSlots, get_of_chains, h.decode, h.execute, h.memory, if_neg (by omega), if_neg (by omega),
    if_pos (by omega), Nat.sub_sub, Nat.add_sub_cancel_left]

theorem recordAt_writeback (h : s.Sized) :
    s.recordAt (s.lat.d + s.lat.e + s.lat.m + n) = s.slotW[n]?.join := by
  rw [State.recordAt, State.allSlots, get_of_chains, h.decode, h.execute, h.memory, if_neg (by omega), if_neg (by omega),
    if_neg (by omega), Nat.sub_sub, Nat.sub_sub, ← Nat.add_assoc, Nat.add_sub_cancel_left]

variable (found : Option Instr)

/-- Decode, after a cycle: its records have moved on as they were, or were killed (R111, R231). -/
theorem completed_recordAt_decode (h : s.Sized) (hn : n < s.lat.d) :
    (s.completed found).recordAt (n + 1) = if s.redirects then none else s.slotD[n]?.join := by
  have hpos := h.positive
  rw [completed_recordAt_succ found h.chained (by rw [h.allSlots_length, Latencies.total]; omega), State.ran, get_of_chains,
    ranD_length, h.decode, if_pos hn, State.ranD]
  cases s.redirects <;> simp [h.decode, hn]

/-- Execute, after a cycle: a record has computed and moved on, unless an older jump killed it (R112, R152). -/
theorem completed_recordAt_execute (h : s.Sized) (hn : n < s.lat.e) :
    (s.completed found).recordAt (s.lat.d + n + 1) =
      if (redirectTarget (s.slotE.drop (n + 1))).isSome then none else s.slotE[n]?.join.map (computed s.regsBack) := by
  have hpos := h.positive
  rw [completed_recordAt_succ found h.chained (by rw [h.allSlots_length, Latencies.total]; omega), State.ran, get_of_chains,
    ranD_length, ranE_length, h.decode, h.execute, if_neg (by omega), if_pos (by omega), Nat.add_sub_cancel_left, State.ranE,
    executed_get]
  cases s.slotE[n]? <;> simp

/-- Memory, after a cycle: a record has made its access and moved on (R113). -/
theorem completed_recordAt_memory (h : s.Sized) (hn : n < s.lat.m) :
    (s.completed found).recordAt (s.lat.d + s.lat.e + n + 1) =
      s.slotM[n]?.join.map (loadFrom (stored (s.slotM.drop (n + 1)) s.dmem)) := by
  have hpos := h.positive
  rw [completed_recordAt_succ found h.chained (by rw [h.allSlots_length, Latencies.total]; omega), State.ran, get_of_chains,
    ranD_length, ranE_length, ranM_length, h.decode, h.execute, h.memory, if_neg (by omega), if_neg (by omega),
    if_pos (by omega), Nat.sub_sub, Nat.add_sub_cancel_left, State.ranM, loaded_get]
  cases s.slotM[n]? <;> rfl

/-- Writeback, after a cycle: a record below the exit has moved on as it was (R114). -/
theorem completed_recordAt_writeback (h : s.Sized) (hn : n + 1 < s.lat.w) :
    (s.completed found).recordAt (s.lat.d + s.lat.e + s.lat.m + n + 1) = s.slotW[n]?.join := by
  rw [completed_recordAt_succ found h.chained (by rw [h.allSlots_length, Latencies.total]; omega), State.ran, get_of_chains,
    ranD_length, ranE_length, ranM_length, h.decode, h.execute, h.memory, if_neg (by omega), if_neg (by omega),
    if_neg (by omega), Nat.sub_sub, Nat.sub_sub, ← Nat.add_assoc, Nat.add_sub_cancel_left]

/-- A position of the pipeline lies in one of the four stages (R11). -/
theorem position_cases (l : Latencies) {q : Nat} (hq : q < l.total) :
    q < l.d ∨ (∃ n < l.e, q = l.d + n) ∨ (∃ n < l.m, q = l.d + l.e + n) ∨ ∃ n < l.w, q = l.d + l.e + l.m + n := by
  unfold Latencies.total at hq
  by_cases hd : q < l.d
  · exact .inl hd
  by_cases he : q < l.d + l.e
  · exact .inr (.inl ⟨q - l.d, by omega, by omega⟩)
  by_cases hm : q < l.d + l.e + l.m
  · exact .inr (.inr (.inl ⟨q - l.d - l.e, by omega, by omega⟩))
  · exact .inr (.inr (.inr ⟨q - l.d - l.e - l.m, by omega, by omega⟩))

end

end Sys2Proof.Machine

namespace Sys2Proof.Machine

/-! ### What a cycle leaves, whatever it fetches (R170, R289) -/

/-- Settles O32: a cycle that does not complete is rolled back to the state before it, but for the code. -/
theorem faultingCycleIsRolledBack : Obligations.FaultingCycleIsRolledBack := by
  unfold Obligations.FaultingCycleIsRolledBack
  refine fun found s => ⟨fun hf => ?_, fun hf hend => ?_⟩
  · rw [cycleWith, if_neg hf]
  · obtain ⟨hne, -⟩ | ⟨-, s', hok, hs⟩ | ⟨-, k, -, hs⟩ := cycleWith_cases found s
    · exact absurd hf hne
    · obtain ⟨-, -, -, -, -, hfault, -⟩ := fixedPart_eq_iff.mp (cycleTry_fixedPart hok)
      rw [hs] at hend
      exact absurd (hfault.trans hf) hend
    · rw [hs]

theorem misaligned_iff {I : InFlight} : misaligned I = true ↔
    (∃ rt rs off16, I.instr = .lw rt rs off16 ∨ I.instr = .sw rt rs off16) ∧ I.ea.extractLsb' 0 2 ≠ 0#2 := by
  unfold misaligned
  cases hi : I.instr <;> simp [wordAligned]

/-- Settles O33: a cycle of a PSC with its slot chains completes unless `anyMisaligned` holds of memory. -/
theorem onlyMisalignedDataStopsACycle : Obligations.OnlyMisalignedDataStopsACycle := by
  unfold Obligations.OnlyMisalignedDataStopsACycle
  intro found s hsized hf
  have hany : (∃ I rt rs off16, some I ∈ s.slotM ∧ (I.instr = .lw rt rs off16 ∨ I.instr = .sw rt rs off16) ∧
      I.ea.extractLsb' 0 2 ≠ 0#2) ↔ anyMisaligned s.slotM = true := by
    rw [anyMisaligned_iff]
    constructor
    · rintro ⟨I, rt, rs, off, hI, hi, hea⟩
      exact ⟨I, hI, misaligned_iff.mpr ⟨⟨rt, rs, off, hi⟩, hea⟩⟩
    · rintro ⟨I, hI, hm⟩
      obtain ⟨⟨rt, rs, off, hi⟩, hea⟩ := misaligned_iff.mp hm
      exact ⟨I, rt, rs, off, hI, hi, hea⟩
  rw [hany, cycleWith_of_sized found hsized hf]
  have hcompleted : (s.completed found).fault = 0#4 := hf
  cases anyMisaligned s.slotM with
  | true => simp
  | false => simp [hcompleted]

/-! ### Retirement and the counters (R29, R173) -/

theorem exitOf_eq_some {l : List (Option InFlight)} {I : InFlight} : exitOf l = some I ↔ l.getLast? = some (some I) := by
  simp [exitOf, Option.join_eq_some_iff]

/-- Settles O35: the completed state counts and traces the record in the exit slot of writeback, or counts a stall. -/
theorem completedCycleRetiresOrStalls : Obligations.CompletedCycleRetiresOrStalls := by
  unfold Obligations.CompletedCycleRetiresOrStalls
  intro found s _ hend
  obtain ⟨heq, -⟩ := cycleWith_eq_completed hend
  simp only [heq]
  refine ⟨fun I k hI hk => ?_, fun hnone => ?_⟩
  · have hexit : exitOf s.slotW = some I := exitOf_eq_some.mpr hI
    simp [State.completed, hexit, traceRecord, hk, State.x]
  · have hexit : exitOf s.slotW = none :=
      Option.eq_none_iff_forall_ne_some.mpr fun I hI => hnone I (exitOf_eq_some.mp hI)
    simp [State.completed, hexit]

theorem cycle_of_faulted {s : State} (h : s.fault ≠ 0#4) : cycle s = s := by
  rw [cycle, cycleWith, if_neg h]

theorem cycles_of_faulted {s : State} (h : s.fault ≠ 0#4) (n : Nat) : cycles n s = s := by
  induction n with
  | zero => rfl
  | succ n ih => rw [cycles, cycle_of_faulted h, ih]

/-- A run that meets no fault has met none after its first cycle. -/
theorem safe_of_cycles {s : State} {n : Nat} (h : (cycles n s).fault = 0#4) : s.fault = 0#4 := by
  by_contra hf
  rw [cycles_of_faulted hf] at h
  exact hf h

/-- A completed cycle counts exactly one of a commit and a stall (R173). -/
theorem completed_counts (found : Option Instr) (s : State) :
    (s.completed found).committed + (s.completed found).stalls = s.committed + s.stalls + 1#64 := by
  simp only [State.completed]
  cases (exitOf s.slotW).isSome with
  | true => rw [if_pos rfl, if_pos rfl, BitVec.add_assoc, BitVec.add_comm 1#64, ← BitVec.add_assoc]
  | false => rw [if_neg (by decide), if_neg (by decide), ← BitVec.add_assoc]

/-- Settles O36: by induction on the number of cycles, each of which counts one. -/
theorem committedPlusStallsCountsCycles : Obligations.CommittedPlusStallsCountsCycles := by
  unfold Obligations.CommittedPlusStallsCountsCycles
  intro n
  induction n with
  | zero => exact fun s _ _ => (BitVec.add_zero _).symm
  | succ n ih =>
    intro s _ hsafe
    have hnext : (cycle s).fault = 0#4 := safe_of_cycles (n := n) hsafe
    obtain ⟨heq, -⟩ := cycleWith_eq_completed hnext
    have hone : (cycle s).committed + (cycle s).stalls = s.committed + s.stalls + 1#64 := by
      rw [cycle, heq]
      exact completed_counts _ s
    show (cycles n (cycle s)).committed + (cycles n (cycle s)).stalls = _
    rw [ih (cycle s) hnext hsafe, hone, BitVec.add_assoc, ← BitVec.ofNat_add, Nat.add_comm]

/-! ### `pc` (R26, R231) -/

theorem fetched_isSome {found : Option Instr} {s : State} :
    (s.fetched found).isSome = true ↔ s.queue = [] ∧ found ≠ none := by
  unfold State.fetched
  cases s.queue <;> cases found <;> simp

/-- Settles O37: `nextPc` is the oldest jump's target, or follows the fetch. -/
theorem pcFollowsFetchAndRedirection : Obligations.PcFollowsFetchAndRedirection := by
  unfold Obligations.PcFollowsFetchAndRedirection
  intro found s _ hend
  obtain ⟨heq, -⟩ := cycleWith_eq_completed hend
  rw [heq]
  refine ⟨fun hno => ?_, fun younger older R index26 hE hR hold => ?_⟩
  · show s.nextPc found = _
    simp only [State.nextPc, redirectTarget_eq_none.mpr hno, Option.getD_none, fetched_isSome]
  · show s.nextPc found = _
    rw [State.nextPc, hE, redirectTarget_oldest hR hold]
    rfl

/-! ### Where records go (R111 to R114, R158, R231 to R237) -/

/-- The identities of what a chain or the whole pipeline holds, position by position. -/
def identities (l : List (Option InFlight)) : List (Option (Instr × Word)) := l.map (Option.map InFlight.identity)

theorem map_identity_get (l : List (Option InFlight)) (q : Nat) :
    l[q]?.join.map InFlight.identity = (identities l)[q]?.join := by
  rw [identities, List.getElem?_map]
  cases l[q]? <;> rfl

theorem identities_loaded (l : List (Option InFlight)) (m : Memory) : identities (loaded l m) = identities l := by
  induction l with
  | nil => rfl
  | cons e older ih =>
    have hhead : (e.map (loadFrom (stored older m))).map InFlight.identity = e.map InFlight.identity := by
      cases e <;> simp [loadFrom_identity]
    simp only [identities, loaded, List.map_cons, hhead] at ih ⊢
    rw [ih]

theorem identities_executed (regs : Vector Word 32) {l : List (Option InFlight)} (h : redirectTarget l = none) :
    identities (executed regs l) = identities l := by
  rw [executed_of_no_jump regs h, identities, identities, List.map_map]
  refine List.map_congr_left fun e _ => ?_
  cases e <;> simp [computed_identity]

/-- Without a redirection the chains, run, hold the records they held. -/
theorem identities_ran {s : State} (h : s.redirects = false) : identities s.ran = identities s.allSlots := by
  have hnone : redirectTarget s.slotE = none := by simpa [State.redirects] using h
  have hD : s.ranD = s.slotD := by simp [State.ranD, h]
  have hE : identities s.ranE = identities s.slotE := identities_executed _ hnone
  have hM : identities s.ranM = identities s.slotM := identities_loaded _ _
  simp only [identities] at hE hM
  simp only [State.ran, State.allSlots, identities, List.map_append, hD, hE, hM]

theorem loadFrom_of_not_lw {m : Memory} {I : InFlight} (h : ∀ rt rs off16, I.instr ≠ .lw rt rs off16) :
    loadFrom m I = I := by
  unfold loadFrom
  split
  next hi => exact absurd hi (h _ _ _)
  · rfl

/-- Settles O38: each stage's chain, run, keeps identities, and decode, writeback and every access but a load keep the record. -/
theorem recordsAdvanceOnePosition : Obligations.RecordsAdvanceOnePosition := by
  unfold Obligations.RecordsAdvanceOnePosition
  intro found s hsized _ hend
  obtain ⟨heq, hchained, -⟩ := cycleWith_eq_completed hend
  have hpos := hsized.positive
  rw [heq]
  refine ⟨fun hno => ⟨fun q hq => ?_, fun q hq => ?_⟩, fun q I hI hlo hhi hlw => ?_, fun q hlo hhi => ?_⟩
  · have hran := identities_ran (redirects_eq_false.mpr hno)
    rw [completed_recordAt_succ found hchained (by rw [hsized.allSlots_length]; exact hq), map_identity_get, hran,
      ← map_identity_get]
    rfl
  · rw [completed_recordAt_decode found hsized hq, redirects_eq_false.mpr hno, recordAt_decode hsized hq]
    rfl
  · obtain ⟨n, rfl⟩ := Nat.exists_eq_add_of_le hlo
    have hn : n < s.lat.m := by omega
    rw [recordAt_memory hsized hn] at hI
    rw [completed_recordAt_memory found hsized hn, hI, Option.map_some, loadFrom_of_not_lw hlw]
  · obtain ⟨n, rfl⟩ := Nat.exists_eq_add_of_le hlo
    have hn : n + 1 < s.lat.w := by unfold Latencies.total at hhi; omega
    rw [completed_recordAt_writeback found hsized hn, recordAt_writeback hsized]

theorem issuedQueue_of_redirects (found : Option Instr) {s : State} (h : s.redirects = true) :
    s.issuedQueue found = [.bubble] := by
  simp [State.issuedQueue, State.issued, State.keptQueue, h]

/-- A redirection leaves the queue empty and decode with a bubble (R231, R237). -/
theorem completed_of_redirects (found : Option Instr) {s : State} (h : s.redirects = true) (hc : s.chained = true) :
    (s.completed found).queue = [] ∧ (s.completed found).recordAt 0 = none ∧
      (s.completed found).hazardBubbles = s.hazardBubbles := by
  refine ⟨?_, ?_, ?_⟩
  · simp [State.completed, issuedQueue_of_redirects found h]
  · rw [completed_recordAt_zero found hc, State.entered, issuedQueue_of_redirects found h]
    rfl
  · have hk : s.bubbles found = 0 := by simp [State.bubbles, State.issued, h]
    show s.hazardBubbles + BitVec.ofNat 64 (s.bubbles found) = _
    rw [hk]
    exact BitVec.add_zero _

theorem redirectTarget_drop_isSome {younger older : List (Option InFlight)} {R : InFlight} {index26 : BitVec 26}
    (hR : R.instr = .j index26) (hold : ∀ I index, some I ∈ older → I.instr ≠ .j index) {n : Nat} :
    (redirectTarget ((younger ++ some R :: older).drop (n + 1))).isSome = decide (n < younger.length) := by
  by_cases hn : n < younger.length
  · rw [List.drop_append_of_le_length (by omega), redirectTarget_oldest hR hold]
    simp [hn]
  · have hrest : redirectTarget ((younger ++ some R :: older).drop (n + 1)) = none := by
      refine redirectTarget_eq_none.mpr fun I index hI => hold I index ?_
      rw [List.drop_append, List.drop_eq_nil_of_le (by omega), List.nil_append] at hI
      obtain ⟨k, hk⟩ := Nat.exists_eq_add_of_le (Nat.le_of_not_lt hn)
      rw [show n + 1 - younger.length = k + 1 by omega, List.drop_succ_cons] at hI
      exact List.mem_of_mem_drop hI
    simp [hrest, hn]

/-- Settles O39: decode is emptied, execute keeps what stands at the oldest jump or behind no jump, and the rest moves on. -/
theorem redirectionKillsExactlyTheYounger : Obligations.RedirectionKillsExactlyTheYounger := by
  unfold Obligations.RedirectionKillsExactlyTheYounger
  intro found s younger older R index26 hsized _ hend hE hR hold
  obtain ⟨heq, hchained, -⟩ := cycleWith_eq_completed hend
  have hjump : s.redirects = true := redirects_eq_true.mpr ⟨R, index26, by simp [hE], hR⟩
  obtain ⟨hqueue, hentry, -⟩ := completed_of_redirects found hjump hchained
  have hlen : younger.length < s.lat.e := by rw [← hsized.execute, hE]; simp
  rw [heq]
  refine ⟨hqueue, fun q hq => ?_, fun q hlo hhi => ?_⟩
  · cases q with
    | zero => exact hentry
    | succ q =>
      by_cases hd : q < s.lat.d
      · rw [completed_recordAt_decode found hsized hd, hjump]
        rfl
      · obtain ⟨n, rfl⟩ := Nat.exists_eq_add_of_le (Nat.le_of_not_lt hd)
        rw [completed_recordAt_execute found hsized (by omega), hE, redirectTarget_drop_isSome hR hold,
          decide_eq_true (by omega)]
        rfl
  · obtain hd | ⟨n, hn, rfl⟩ | ⟨n, hn, rfl⟩ | ⟨n, hn, rfl⟩ := position_cases s.lat (q := q) (by omega)
    · omega
    · rw [completed_recordAt_execute found hsized hn, recordAt_execute hsized hn, hE, redirectTarget_drop_isSome hR hold,
        decide_eq_false (by omega), if_neg (by decide), Option.map_map]
      exact congrArg (Option.map · _) (funext fun I => computed_identity _ I)
    · rw [completed_recordAt_memory found hsized hn, recordAt_memory hsized hn, Option.map_map]
      exact congrArg (Option.map · _) (funext fun I => loadFrom_identity _ I)
    · rw [completed_recordAt_writeback found hsized (by unfold Latencies.total at hhi; omega), recordAt_writeback hsized]

/-! ### Values (R68, R112 to R114) -/

/-- In execute, a record computes from the registers of the state after the cycle, which writeback alone has written. -/
theorem computed_regsBack (found : Option Instr) (s : State) (I : InFlight) :
    computed s.regsBack I = (behE (s.completed found) I).record := by
  rw [behE_eq]
  rfl

section
variable {I : InFlight} {rd rs rt : RegId} {imm : BitVec 16} {index26 : BitVec 26} (s : State)

theorem behE_add (h : I.instr = .add rd rs rt) : (behE s I).record = addE rs rt s I := by rw [behE, h]
theorem behE_sub (h : I.instr = .sub rd rs rt) : (behE s I).record = subE rs rt s I := by rw [behE, h]
theorem behE_andi (h : I.instr = .andi rt rs imm) : (behE s I).record = andiE rs imm s I := by rw [behE, h]
theorem behE_lw (h : I.instr = .lw rt rs imm) : (behE s I).record = lwE rs imm s I := by rw [behE, h]
theorem behE_sw (h : I.instr = .sw rt rs imm) : (behE s I).record = swE rs rt imm s I := by rw [behE, h]
theorem behE_j (h : I.instr = .j index26) : (behE s I).record = I := by rw [behE, h]

end

/-- Settles O41: behE of the record, in the state that the cycle leaves. -/
theorem executeReadsRegistersAfterWriteback : Obligations.ExecuteReadsRegistersAfterWriteback := by
  unfold Obligations.ExecuteReadsRegistersAfterWriteback
  intro found s hsized _ hend
  obtain ⟨heq, -⟩ := cycleWith_eq_completed hend
  simp only [heq]
  intro n I hI hold
  have hn : n < s.lat.e := by
    rw [← hsized.execute]
    exact (List.getElem?_eq_some_iff.mp hI).1
  have holder : redirectTarget (s.slotE.drop (n + 1)) = none := by
    refine redirectTarget_eq_none.mpr fun K index hK => ?_
    obtain ⟨m, hm⟩ := List.getElem?_of_mem hK
    rw [List.getElem?_drop] at hm
    exact hold (n + 1 + m) K index (by omega) hm
  have hat : (s.completed found).recordAt (s.lat.d + n + 1) = some (behE (s.completed found) I).record := by
    rw [completed_recordAt_execute found hsized hn, holder, hI, ← computed_regsBack]
    rfl
  rw [hat]
  exact ⟨fun rd rs rt hi => congrArg some (behE_add _ hi), fun rd rs rt hi => congrArg some (behE_sub _ hi),
    fun rt rs imm16 hi => congrArg some (behE_andi _ hi), fun rt rs off16 hi => congrArg some (behE_lw _ hi),
    fun rt rs off16 hi => congrArg some (behE_sw _ hi), fun index26 hi => congrArg some (behE_j _ hi)⟩

theorem chain_get_append (younger older : List (Option InFlight)) (e : Option InFlight) :
    (younger ++ e :: older)[younger.length]? = some e ∧ (younger ++ e :: older).drop (younger.length + 1) = older := by
  constructor
  · simp
  · rw [List.drop_append]
    simp

theorem loadFrom_of_lw {m : Memory} {I : InFlight} {rt rs : RegId} {off16 : BitVec 16} (h : I.instr = .lw rt rs off16) :
    loadFrom m I = { I with res := Memory.readAt m I.ea.toNat } := by
  rw [loadFrom, h]

/-- A load in memory reads the memory that the older records' stores leave (R68, R152). -/
theorem completed_load (found : Option Instr) {s : State} (h : s.Sized) {younger older : List (Option InFlight)} {I : InFlight}
    {rt rs : RegId} {off16 : BitVec 16} (hM : s.slotM = younger ++ some I :: older) (hi : I.instr = .lw rt rs off16) :
    (s.completed found).recordAt (s.lat.d + s.lat.e + younger.length + 1) =
      some { I with res := Memory.readAt (stored older s.dmem) I.ea.toNat } := by
  obtain ⟨hget, hdrop⟩ := chain_get_append younger older (some I)
  have hn : younger.length < s.lat.m := by rw [← h.memory, hM]; simp
  rw [completed_recordAt_memory found h hn, hM, hget, hdrop, Option.join_some, Option.map_some, loadFrom_of_lw hi]

theorem storeOf_of_not_sw {I : InFlight} {m : Memory} (h : ∀ rt rs off16, I.instr ≠ .sw rt rs off16) : storeOf I m = m := by
  unfold storeOf
  split
  next hi => exact absurd hi (h _ _ _)
  · rfl

theorem storeOf_of_sw {I : InFlight} {m : Memory} {rt rs : RegId} {off16 : BitVec 16} (h : I.instr = .sw rt rs off16) :
    storeOf I m = Memory.writeAt m I.ea.toNat I.sdata := by
  rw [storeOf, h]

theorem stored_of_no_sw {l : List (Option InFlight)} {m : Memory}
    (h : ∀ K rt rs off16, some K ∈ l → K.instr ≠ .sw rt rs off16) : stored l m = m := by
  induction l with
  | nil => rfl
  | cons e older ih =>
    have hold := ih fun K rt rs off hK => h K rt rs off (List.mem_cons_of_mem _ hK)
    cases e with
    | none => exact hold
    | some K =>
      rw [stored, storeOf_of_not_sw fun rt rs off => h K rt rs off (List.mem_cons_self ..), hold]

/-- Settles O42: without an older store, the memory that the load reads is the one before the cycle. -/
theorem loadReadsBeforeYoungerStores : Obligations.LoadReadsBeforeYoungerStores := by
  unfold Obligations.LoadReadsBeforeYoungerStores
  intro found s hsized _ hend younger older I rt rs off16 hM hi hold
  obtain ⟨heq, -⟩ := cycleWith_eq_completed hend
  rw [heq, completed_load found hsized hM hi, stored_of_no_sw hold]
  rfl

theorem storeOf_wf (I : InFlight) {m : Memory} (h : Memory.wf m = true) : Memory.wf (storeOf I m) = true := by
  unfold storeOf
  split
  · exact writeAt_wfFrom _ h (Nat.zero_le _) I.ea.isLt
  · exact h

/-- The stores of a chain keep the canonical form of memory. -/
theorem stored_wf (l : List (Option InFlight)) {m : Memory} (h : Memory.wf m = true) : Memory.wf (stored l m) = true := by
  induction l with
  | nil => exact h
  | cons e older ih =>
    cases e with
    | none => exact ih
    | some K => exact storeOf_wf K ih

/-- An address that no store of a chain has reads as before. -/
theorem readAt_stored_of_no_store {l : List (Option InFlight)} {m : Memory} (hwf : Memory.wf m = true) {a : Word}
    (h : ∀ K rt rs off16, some K ∈ l → K.instr = .sw rt rs off16 → K.ea ≠ a) :
    Memory.readAt (stored l m) a.toNat = Memory.readAt m a.toNat := by
  induction l with
  | nil => rfl
  | cons e older ih =>
    have hold := ih fun K rt rs off hK => h K rt rs off (List.mem_cons_of_mem _ hK)
    cases e with
    | none => exact hold
    | some K =>
      rw [← hold, stored]
      by_cases hsw : ∃ rt rs off, K.instr = .sw rt rs off
      · obtain ⟨rt, rs, off, hK⟩ := hsw
        have hne : a ≠ K.ea := (h K rt rs off (List.mem_cons_self ..) hK).symm
        rw [storeOf_of_sw hK, readAt_writeAt _ (stored_wf older hwf), if_neg (fun e => hne (BitVec.toNat_inj.mp e))]
      · rw [storeOf_of_not_sw fun rt rs off hK => hsw ⟨rt, rs, off, hK⟩]

theorem stored_append (l l' : List (Option InFlight)) (m : Memory) : stored (l ++ l') m = stored l (stored l' m) := by
  induction l with
  | nil => rfl
  | cons e l ih => cases e <;> simp [stored, ih]

/-- The youngest store of a chain to an address gives the Word there (R68). -/
theorem readAt_stored_youngest {younger older : List (Option InFlight)} {W : InFlight} {m : Memory} (hwf : Memory.wf m = true)
    {rt rs : RegId} {off16 : BitVec 16} (hW : W.instr = .sw rt rs off16)
    (h : ∀ K rt rs off16, some K ∈ younger → K.instr = .sw rt rs off16 → K.ea ≠ W.ea) :
    Memory.readAt (stored (younger ++ some W :: older) m) W.ea.toNat = W.sdata := by
  rw [stored_append, readAt_stored_of_no_store (stored_wf _ hwf) h, stored, storeOf_of_sw hW,
    readAt_writeAt _ (stored_wf older hwf), if_pos rfl]

/-- Settles O43: the load reads the memory after the older stores, and the youngest one to its address gives that Word. -/
theorem loadReadsYoungestOlderStore : Obligations.LoadReadsYoungestOlderStore := by
  unfold Obligations.LoadReadsYoungestOlderStore
  intro found s hsized hwf _ hend younger older I rt rs off16 hM hi
  obtain ⟨heq, -⟩ := cycleWith_eq_completed hend
  rw [heq, completed_load found hsized hM hi]
  refine ⟨fun hold => ?_, fun between oldest W rt' rs' off' hsplit hW hea hbetween => ?_⟩
  · rw [readAt_stored_of_no_store hwf hold]
    rfl
  · rw [hsplit, ← hea, readAt_stored_youngest hwf hW (by rwa [hea])]

/-- The Word that a register file holds in a register. -/
def valueOf (regs : Vector Word 32) (r : RegId) : Word := regs[r.toNat]'r.isLt

theorem x_eq (s : State) (r : RegId) : s.x r = valueOf s.regs r := rfl

theorem valueOf_regsWith (rs : List RegId) (v : Word) (regs : Vector Word 32) (r : RegId) :
    valueOf (regsWith rs v regs) r = if r ∈ rs then v else valueOf regs r := by
  have h := x_setXs { State.reset with regs := regs } rs v r
  rwa [setXs_eq] at h

theorem valueOf_writtenBack_of_not_written {l : List (Option InFlight)} {regs : Vector Word 32} {r : RegId}
    (h : ∀ K, some K ∈ l → r ∉ dsts K.instr) : valueOf (writtenBack l regs) r = valueOf regs r := by
  induction l with
  | nil => rfl
  | cons e older ih =>
    have hold := ih fun K hK => h K (List.mem_cons_of_mem _ hK)
    cases e with
    | none => exact hold
    | some K => rw [writtenBack, valueOf_regsWith, if_neg (h K (List.mem_cons_self ..)), hold]

theorem writtenBack_append (l l' : List (Option InFlight)) (regs : Vector Word 32) :
    writtenBack (l ++ l') regs = writtenBack l (writtenBack l' regs) := by
  induction l with
  | nil => rfl
  | cons e l ih => cases e <;> simp [writtenBack, ih]

/-- Settles O44: of a chain that runs exit slot first, the youngest writer writes last. -/
theorem youngestWriterWins : Obligations.YoungestWriterWins := by
  unfold Obligations.YoungestWriterWins
  intro found s _ hend
  obtain ⟨heq, -⟩ := cycleWith_eq_completed hend
  rw [heq]
  refine ⟨fun younger older I r hW hr hyounger => ?_, fun hwf younger older I rt rs off16 hM hi hyounger => ?_⟩
  · show valueOf (writtenBack s.slotW s.regs) r = I.res
    rw [hW, writtenBack_append, valueOf_writtenBack_of_not_written hyounger, writtenBack, valueOf_regsWith, if_pos hr]
  · show Memory.readAt (stored s.slotM s.dmem) I.ea.toNat = I.sdata
    rw [hM, readAt_stored_youngest hwf hi hyounger]

/-- Settles O31: the fixed part of a cycle, and what writeback and the stores of memory write. -/
theorem programInstructionFrame : Obligations.ProgramInstructionFrame := by
  unfold Obligations.ProgramInstructionFrame
  refine ⟨fun i s hi => exec_program hi s, fun found s => ?_⟩
  obtain ⟨-, h⟩ | ⟨-, t, hok, h⟩ | ⟨-, k, -, h⟩ := cycleWith_cases found s <;> rw [h]
  · exact ⟨rfl, rfl, rfl, rfl, rfl, rfl, rfl, rfl, fun _ _ => rfl, fun _ _ _ => rfl⟩
  · obtain ⟨rfl, -⟩ := cycleTry_ok_completed hok
    exact ⟨rfl, rfl, rfl, rfl, rfl, rfl, rfl, rfl, fun r hr => valueOf_writtenBack_of_not_written hr,
      fun hwf a ha => readAt_stored_of_no_store hwf ha⟩
  · exact ⟨rfl, rfl, rfl, rfl, rfl, rfl, rfl, rfl, fun _ _ => rfl, fun _ _ _ => rfl⟩

/-! ### What a cycle does not read (R27, R157) -/

/-- The state with other stage frequencies and another count of cycles due: two fields that no step of a cycle reads. -/
def State.aside (s : State) (freq : Frequencies) (n : Nat) : State := { s with freq := freq, runLeft := n }

section
variable (found : Option Instr) (s : State) (freq : Frequencies) (n : Nat)

theorem bubbles_aside : (s.aside freq n).bubbles found = s.bubbles found := by
  simp only [State.bubbles, retired_eq]
  rfl

theorem completed_aside : (s.aside freq n).completed found = (s.completed found).aside freq n := by
  unfold State.completed State.issuedQueue
  rw [bubbles_aside]
  rfl

theorem cycleTry_aside :
    cycleTry found (s.aside freq n) = (cycleTry found s).map fun t => t.aside freq n := by
  have hm : (s.aside freq n).slotM = s.slotM := rfl
  have hc : (s.aside freq n).chained = s.chained := rfl
  rw [cycleTry_eq, cycleTry_eq, completed_aside, hm, hc]
  cases anyMisaligned s.slotM <;> cases s.chained <;> rfl

theorem cycleWith_aside : cycleWith found (s.aside freq n) = (cycleWith found s).aside freq n := by
  have hfault : (s.aside freq n).fault = s.fault := rfl
  rw [cycleWith, cycleWith, cycleTry_aside, hfault]
  by_cases hf : s.fault = 0#4
  · rw [if_pos hf, if_pos hf]
    cases cycleTry found s with
    | ok t => rfl
    | error k => simp [Except.map, enterFaulted, hf, State.aside]
  · rw [if_neg hf, if_neg hf]

end

theorem cycleWith_runLeft (found : Option Instr) (s : State) : (cycleWith found s).runLeft = s.runLeft := by
  obtain ⟨-, h⟩ | ⟨-, t, hok, h⟩ | ⟨-, k, -, h⟩ := cycleWith_cases found s <;> rw [h]
  obtain ⟨rfl, -⟩ := cycleTry_ok_completed hok
  rfl

/-- Settles O52: no part of a cycle's closed form reads a frequency. -/
theorem frequenciesDoNotAffectACycle : Obligations.FrequenciesDoNotAffectACycle := by
  unfold Obligations.FrequenciesDoNotAffectACycle
  intro found s freq
  calc cycleWith found { s with freq := freq }
    _ = (cycleWith found s).aside freq s.runLeft := cycleWith_aside found s freq s.runLeft
    _ = { cycleWith found s with freq := freq } := by rw [State.aside, ← cycleWith_runLeft found s]

theorem completed_slotD_tail (found : Option Instr) (s : State) : (s.completed found).slotD.tail = s.ranD.dropLast := rfl

/-- Settles O51: in the completed state FWD_CFG enters only the stall count, which shows in the queue, the entry of decode and
the count of bubbles. -/
theorem forwardingIsTimingOnly : Obligations.ForwardingIsTimingOnly := by
  unfold Obligations.ForwardingIsTimingOnly
  intro found s cfg hsized
  have hsized' : State.Sized { s with fwdCfg := cfg } :=
    ⟨hsized.latencies, hsized.decode, hsized.execute, hsized.memory, hsized.writeback⟩
  by_cases hf : s.fault = 0#4
  · rw [cycleWith_of_sized found hsized hf, cycleWith_of_sized found hsized' hf]
    cases anyMisaligned s.slotM with
    | true =>
      rw [if_pos rfl, if_pos rfl]
      exact ⟨rfl, rfl, rfl, rfl, rfl, rfl, rfl, rfl, rfl, rfl, rfl, rfl, rfl⟩
    | false =>
      rw [if_neg (by decide), if_neg (by decide)]
      exact ⟨rfl, rfl, rfl, rfl, rfl, rfl, rfl, rfl, rfl, rfl, rfl, rfl,
        (completed_slotD_tail found { s with fwdCfg := cfg }).trans (completed_slotD_tail found s).symm⟩
  · have hsame : ∀ u : State, u.fault = s.fault → cycleWith found u = u := fun u hu => by
      rw [cycleWith, if_neg (hu ▸ hf)]
    rw [hsame s rfl, hsame { s with fwdCfg := cfg } rfl]
    exact ⟨rfl, rfl, rfl, rfl, rfl, rfl, rfl, rfl, rfl, rfl, rfl, rfl, rfl⟩

end Sys2Proof.Machine

namespace Sys2Proof.Machine

/-! ### The stall search (R203 to R208, R213) -/

section
variable {lat : Latencies} {cfg : BitVec 16} {prods : List (Option Rra × Nat)} {k : Nat}

/-- The search answers a count within its ceiling that every producer allows, when no smaller one does (R207). -/
theorem searchStall_eq_ok (hk : k < lat.total + 2) (hall : allViable lat cfg prods k = true)
    (hleast : ∀ k' < k, allViable lat cfg prods k' = false) : searchStall lat cfg prods = .ok k := by
  have hfind : (List.range (lat.total + 2)).find? (allViable lat cfg prods) = some k :=
    List.find?_range_eq_some.mpr ⟨hall, List.mem_range.mpr hk, fun j hj => by simp [hleast j hj]⟩
  rw [searchStall, hfind]

theorem allViable_iff :
    allViable lat cfg prods k = true ↔ ∀ p ∈ prods, viable lat cfg p.1 (p.2 + k) = true := by
  simp [allViable]

theorem allViable_eq_false :
    allViable lat cfg prods k = false ↔ ∃ p ∈ prods, viable lat cfg p.1 (p.2 + k) = false := by
  simp [allViable]

/-- Producers past position 0 have all retired after P - 1 bubbles (R212). -/
theorem allViable_of_total_le (hpos : ∀ p ∈ prods, 1 ≤ p.2) (hk : lat.total ≤ k + 1) : allViable lat cfg prods k = true := by
  refine allViable_iff.mpr fun p hp => viable_iff.mpr (.inl ?_)
  have := hpos p hp
  omega

end

/-- What the stall count is: the least count that every producer allows (R207). -/
theorem stallCount_spec {t : Transit} {s : State} {J : Instr} {k : Nat} (h : stallCount t s J = .ok k) :
    (∀ p ∈ producers t s J, viable s.lat s.fwdCfg (rraOf p.1.instr) (p.2 + k) = true) ∧
      ∀ k' < k, ∃ p ∈ producers t s J, viable s.lat s.fwdCfg (rraOf p.1.instr) (p.2 + k') = false := by
  obtain ⟨-, hall, hleast⟩ := searchStall_ok h
  refine ⟨fun p hp => ?_, fun k' hk' => ?_⟩
  · exact allViable_iff.mp hall (rraOf p.1.instr, p.2) (List.mem_map.mpr ⟨p, hp, rfl⟩)
  · obtain ⟨q, hq, hv⟩ := allViable_eq_false.mp (hleast k' hk')
    obtain ⟨p, hp, rfl⟩ := List.mem_map.mp hq
    exact ⟨p, hp, hv⟩

theorem stallCount_lt {t : Transit} {s : State} {J : Instr} {k : Nat} (h : stallCount t s J = .ok k) (hP : 1 ≤ s.lat.total)
    (hpos : ∀ p ∈ producers t s J, 1 ≤ p.2) : k < s.lat.total := by
  obtain ⟨-, -, hleast⟩ := searchStall_ok h
  by_contra hge
  have hfalse := hleast (s.lat.total - 1) (by omega)
  have hmapped : ∀ q ∈ (producers t s J).map fun p => (rraOf p.1.instr, p.2), 1 ≤ q.2 := fun q hq => by
    obtain ⟨p, hp, rfl⟩ := List.mem_map.mp hq
    exact hpos p hp
  rw [allViable_of_total_le hmapped (by omega)] at hfalse
  cases hfalse

/-- Settles O48: the search finds a count, the least one, and P - 1 would do. -/
theorem stallCountIsLeastAndBounded : Obligations.StallCountIsLeastAndBounded := by
  unfold Obligations.StallCountIsLeastAndBounded
  intro t s J hP hpos
  obtain ⟨k, hk⟩ := stallCount_ok t s J
  obtain ⟨hall, hleast⟩ := stallCount_spec hk
  exact ⟨k, hk, stallCount_lt hk hP hpos, hall, hleast⟩

/-- The search for one producer, given the exact condition on its offset that viability comes to. -/
theorem searchStall_single {lat : Latencies} {cfg : BitVec 16} {rra : Option Rra} {p k : Nat}
    (hv : viable lat cfg rra (p + k) = true) (hleast : ∀ k' < k, viable lat cfg rra (p + k') = false) (hk : k < lat.total + 2) :
    searchStall lat cfg [(rra, p)] = .ok k :=
  searchStall_eq_ok hk (by simpa [allViable] using hv) (by simpa [allViable] using hleast)

/-- A producer that waits for its retirement (R206): the wait ends at position P, if no edge serves it before. -/
theorem searchStall_retirement {lat : Latencies} {cfg : BitVec 16} {rra : Option Rra} {p : Nat} (hp : p < lat.total)
    (hedge : ∀ d, p ≤ d → d < lat.total → viable lat cfg rra d = false) :
    searchStall lat cfg [(rra, p)] = .ok (lat.total - p) :=
  searchStall_single (viable_iff.mpr (.inl (by omega))) (fun k' hk' => hedge _ (by omega) (by omega)) (by omega)

/-- A producer that an enabled edge serves at offset `d`, before its retirement and no earlier (R204, R205). -/
theorem searchStall_edge {lat : Latencies} {cfg : BitVec 16} {rra : Option Rra} {p d : Nat} (hp : p ≤ d) (hd : d < lat.total)
    (hedge : viable lat cfg rra d = true) (hearly : ∀ d' < d, viable lat cfg rra d' = false) :
    searchStall lat cfg [(rra, p)] = .ok (d - p) :=
  searchStall_single (by rwa [Nat.add_sub_cancel' hp]) (fun k' hk' => hearly _ (by omega)) (by omega)

theorem viable_ex_iff {lat : Latencies} {cfg : BitVec 16} {d : Nat} :
    viable lat cfg (some .ex) d = true ↔ lat.total ≤ d ∨ (cfg.getLsbD 5 = true ∧ d = lat.e) := by
  simp [viable_iff]

theorem viable_mem_iff {lat : Latencies} {cfg : BitVec 16} {d : Nat} :
    viable lat cfg (some .mem) d = true ↔ lat.total ≤ d ∨ (cfg.getLsbD 9 = true ∧ d = lat.e + lat.m) := by
  simp [viable_iff]

theorem viable_wb_iff {lat : Latencies} {cfg : BitVec 16} {d : Nat} :
    viable lat cfg (some .wb) d = true ↔ lat.total ≤ d := by
  simp [viable_iff]

/-- Settles O49: for each rra the edge serves a producer that is not past it, and else the producer waits for its retirement. -/
theorem singleProducerClosedForm : Obligations.SingleProducerClosedForm := by
  unfold Obligations.SingleProducerClosedForm
  intro lat cfg p hlat _ hp
  obtain ⟨⟨hd, -⟩, ⟨he, -⟩, ⟨hm, -⟩, hw, -⟩ := latencies_wf_iff.mp hlat
  have hE : lat.e < lat.total := by unfold Latencies.total; omega
  have hEM : lat.e + lat.m < lat.total := by unfold Latencies.total; omega
  refine ⟨?_, ?_, ?_⟩
  · split
    next h =>
      refine searchStall_edge h.2 hE (viable_ex_iff.mpr (.inr ⟨h.1, rfl⟩)) fun d' hd' => ?_
      rw [Bool.eq_false_iff, ne_eq, viable_ex_iff]
      omega
    next h =>
      refine searchStall_retirement hp fun d hpd hdt => ?_
      rw [Bool.eq_false_iff, ne_eq, viable_ex_iff]
      rintro (hge | ⟨hcfg, rfl⟩)
      · omega
      · exact h ⟨hcfg, hpd⟩
  · split
    next h =>
      refine searchStall_edge h.2 hEM (viable_mem_iff.mpr (.inr ⟨h.1, rfl⟩)) fun d' hd' => ?_
      rw [Bool.eq_false_iff, ne_eq, viable_mem_iff]
      omega
    next h =>
      refine searchStall_retirement hp fun d hpd hdt => ?_
      rw [Bool.eq_false_iff, ne_eq, viable_mem_iff]
      rintro (hge | ⟨hcfg, rfl⟩)
      · omega
      · exact h ⟨hcfg, hpd⟩
  · refine searchStall_retirement hp fun d _ hdt => ?_
    rw [Bool.eq_false_iff, ne_eq, viable_wb_iff]
    omega

theorem isProducer_iff {s : State} {J I : Instr} :
    isProducer s J I = true ↔ ∃ r ∈ srcs J, r ∈ dsts I ∧ 0 < s.busyOf r := by
  simp [isProducer]

theorem stallCount_of_no_producer {t : Transit} {s : State} {J : Instr} (h : producers t s J = []) :
    stallCount t s J = .ok 0 := by
  rw [stallCount, h]
  exact searchStall_eq_ok (by omega) rfl fun k' hk' => absurd hk' (Nat.not_lt_zero _)

/-- Settles O50: without a raised busy count there is no producer, and the search over none answers 0. -/
theorem noHazardNoStall : Obligations.NoHazardNoStall := by
  unfold Obligations.NoHazardNoStall
  intro t s J h
  refine stallCount_of_no_producer (List.filter_eq_nil_iff.mpr fun p hp hprod => ?_)
  obtain ⟨r, hr, hd, hbusy⟩ := isProducer_iff.mp hprod
  rw [h p hp r hr hd] at hbusy
  exact absurd hbusy (Nat.lt_irrefl 0)

/-! ### The records in flight and the positions they move to (R200, R201) -/

theorem placed_cons (pos : Nat) (e : Option InFlight) (l : List (Option InFlight)) :
    placed pos (e :: l) = placed pos [e] ++ placed (pos + 1) l := by
  cases e <;> rfl

theorem placed_append (pos : Nat) (l l' : List (Option InFlight)) :
    placed pos (l ++ l') = placed pos l ++ placed (pos + l.length) l' := by
  induction l generalizing pos with
  | nil => rfl
  | cons e l ih =>
    rw [List.cons_append, placed_cons, ih, placed_cons pos e l, List.append_assoc, List.length_cons]
    congr 3
    omega

theorem mem_placed {pos p : Nat} {l : List (Option InFlight)} {K : InFlight} :
    (K, p) ∈ placed pos l ↔ pos ≤ p ∧ l[p - pos]? = some (some K) := by
  induction l generalizing pos with
  | nil => simp [placed]
  | cons e l ih =>
    rw [placed_cons, List.mem_append, ih]
    obtain hlt | rfl | hgt := Nat.lt_trichotomy p pos
    · cases e <;> simp [placed] <;> omega
    · cases e <;> simp [placed, eq_comm]
    · obtain ⟨n, rfl⟩ := Nat.exists_eq_add_of_lt hgt
      have hsub : pos + n + 1 - pos = n + 1 := by omega
      have hsub' : pos + n + 1 - (pos + 1) = n := by omega
      have hne : ¬ pos + n + 1 = pos := by omega
      cases e <;> simp [placed, hsub, hsub', hne] <;> omega

theorem mem_placed_zero {s : State} {p : Nat} {K : InFlight} : (K, p) ∈ placed 0 s.allSlots ↔ s.recordAt p = some K := by
  rw [mem_placed, State.recordAt, Option.join_eq_some_iff]
  simp

theorem placed_shiftChain (pos : Nat) {l : List (Option InFlight)} (h : l ≠ []) :
    placed pos (shiftChain l) = placed (pos + 1) l.dropLast := by
  cases l with
  | nil => exact absurd rfl h
  | cons e l => rfl

/-- The record of a placed chain and its position stand no lower than the chain. -/
theorem le_of_mem_placed {pos p : Nat} {l : List (Option InFlight)} {K : InFlight} (h : (K, p) ∈ placed pos l) : pos ≤ p :=
  (mem_placed.mp h).1

section
variable (found : Option Instr) {s : State} (h : s.Sized)
include h

/-- The pipeline after a cycle, chain by chain: each chain's entry, and what has shifted behind it. -/
theorem placed_completed : placed 0 (s.completed found).allSlots =
    placed 0 [s.entered found] ++ placed 1 s.ranD.dropLast ++
    (placed s.lat.d [exitOf s.ranD] ++ placed (s.lat.d + 1) s.ranE.dropLast) ++
    (placed (s.lat.d + s.lat.e) [exitOf s.ranE] ++ placed (s.lat.d + s.lat.e + 1) s.ranM.dropLast) ++
    (placed (s.lat.d + s.lat.e + s.lat.m) [exitOf s.ranM] ++
      placed (s.lat.d + s.lat.e + s.lat.m + 1) s.slotW.dropLast) := by
  obtain ⟨hd, he, hm, hw⟩ := h.positive
  have hallSlots : (s.completed found).allSlots = (s.entered found :: s.ranD.dropLast) ++
    (exitOf s.ranD :: s.ranE.dropLast) ++ (exitOf s.ranE :: s.ranM.dropLast) ++ (exitOf s.ranM :: s.slotW.dropLast) := rfl
  rw [hallSlots, placed_append, placed_append, placed_append, placed_cons 0, placed_cons _ (exitOf s.ranD),
    placed_cons _ (exitOf s.ranE), placed_cons _ (exitOf s.ranM)]
  simp only [List.length_append, List.length_cons, List.length_dropLast, ranD_length, ranE_length, ranM_length, h.decode,
    h.execute, h.memory, Nat.zero_add, Nat.sub_add_cancel hd, Nat.sub_add_cancel he, Nat.sub_add_cancel hm]

/-- What step 4 takes to be in flight, chain by chain. -/
theorem inFlightAt_eq : inFlightAt (s.transit found) (s.retired found) =
    placed 1 s.ranD.dropLast ++ placed (s.lat.d + 1) s.ranE.dropLast ++ placed (s.lat.d + s.lat.e + 1) s.ranM.dropLast ++
      placed (s.lat.d + s.lat.e + s.lat.m + 1) s.slotW.dropLast ++
    placed s.lat.d [exitOf s.ranD] ++ placed (s.lat.d + s.lat.e) [exitOf s.ranE] ++
    placed (s.lat.d + s.lat.e + s.lat.m) [exitOf s.ranM] := by
  obtain ⟨hd, he, hm, hw⟩ := h.positive
  have hallSlots : (s.retired found).allSlots =
    shiftChain s.ranD ++ shiftChain s.ranE ++ shiftChain s.ranM ++ shiftChain s.slotW := by rw [retired_eq]; rfl
  have hlat : (s.retired found).lat = s.lat := by rw [retired_eq]; rfl
  have hne : ∀ {l : List (Option InFlight)}, 1 ≤ l.length → l ≠ [] := List.ne_nil_of_length_pos
  unfold inFlightAt
  rw [hallSlots, hlat, placed_append, placed_append, placed_append,
    placed_shiftChain _ (hne (by rw [ranD_length, h.decode]; exact hd)),
    placed_shiftChain _ (hne (by rw [ranE_length, h.execute]; exact he)),
    placed_shiftChain _ (hne (by rw [ranM_length, h.memory]; exact hm)),
    placed_shiftChain _ (hne (by rw [h.writeback]; exact hw))]
  simp only [List.length_append, shiftChain_length, ranD_length, ranE_length, ranM_length, h.decode, h.execute, h.memory,
    Nat.zero_add]
  rfl

/-- What step 4 takes to be in flight is what stands past the entry of decode after the cycle. -/
theorem mem_inFlightAt {p : Nat} {K : InFlight} :
    (K, p) ∈ inFlightAt (s.transit found) (s.retired found) ↔ 1 ≤ p ∧ (s.completed found).recordAt p = some K := by
  obtain ⟨hd, he, hm, hw⟩ := h.positive
  rw [← mem_placed_zero, placed_completed found h, inFlightAt_eq found h]
  simp only [List.mem_append]
  have hentry : (K, p) ∈ placed 0 [s.entered found] → p = 0 := fun hmem => by
    obtain ⟨-, hget⟩ := mem_placed.mp hmem
    have := (List.getElem?_eq_some_iff.mp hget).1
    simpa using this
  constructor
  · intro hmem
    refine ⟨?_, by tauto⟩
    obtain ((((((h1 | h1) | h1) | h1) | h1) | h1) | h1) := hmem <;> have := le_of_mem_placed h1 <;> omega
  · rintro ⟨hp, hmem⟩
    have hno : (K, p) ∉ placed 0 [s.entered found] := fun hm' => by have := hentry hm'; omega
    tauto

end

end Sys2Proof.Machine

namespace Sys2Proof.Machine

/-! ### Busy counts through a cycle (R25, R182.3) -/

theorem writesIn_of_identities {l l' : List (Option InFlight)} (h : identities l = identities l') (r : RegId) :
    writesIn l r = writesIn l' r := by
  have hcount : ∀ l : List (Option InFlight),
      (l.filterMap id).flatMap (fun I => dsts I.instr) =
        ((identities l).filterMap id).flatMap fun p => dsts p.1 := fun l => by
    induction l with
    | nil => rfl
    | cons e l ih => cases e <;> simp_all [identities, InFlight.identity]
  simp only [writesIn, hcount, h]

theorem writesIn_map_none (l : List (Option InFlight)) (r : RegId) : writesIn (l.map fun _ => none) r = 0 := by
  induction l with
  | nil => rfl
  | cons e l ih => exact ih

/-- In execute, a record runs or is killed, and a record that runs keeps its destinations. -/
theorem writesIn_executed (regs : Vector Word 32) (l : List (Option InFlight)) (r : RegId) :
    writesIn (executed regs l) r + writesIn (killedIn l) r = writesIn l r := by
  induction l with
  | nil => rfl
  | cons e older ih =>
    rw [executed, killedIn, writesIn_cons _ (executed regs older), writesIn_cons _ (killedIn older), writesIn_cons e]
    cases (redirectTarget older).isSome with
    | true => simp only [if_true, writesIn_none, writesIn_nil]; omega
    | false =>
      have hhead : writesIn [e.map (computed regs)] r = writesIn [e] r :=
        writesIn_of_identities (by cases e <;> simp [identities, computed_identity]) r
      simp only [Bool.false_eq_true, if_false, writesIn_none, writesIn_nil, hhead]
      omega

theorem writesIn_ranM (s : State) (r : RegId) : writesIn s.ranM r = writesIn s.slotM r :=
  writesIn_of_identities (identities_loaded _ _) r

/-- Every write of a record in flight is, after step 2, a killed one or one of a record that is still in flight. -/
theorem inFlightWrites_split (s : State) (r : RegId) :
    s.inFlightWrites r = s.killedWrites r + writesIn s.ran r + queueWrites s.keptQueue r := by
  have hE := writesIn_executed s.regsBack s.slotE r
  rw [inFlightWrites_eq, State.killedWrites, State.ran, State.ranD, State.keptQueue, State.allSlots]
  simp only [writesIn_append, writesIn_ranM, State.ranE]
  cases s.redirects with
  | true => simp only [if_true, writesIn_map_none, queueWrites_nil]; omega
  | false => simp only [Bool.false_eq_true, if_false]; omega

theorem exitOf_ran {s : State} (h : s.chained = true) : exitOf s.ran = exitOf s.slotW := by
  obtain ⟨-, -, -, hw⟩ := chained_iff.mp h
  rw [exitOf, exitOf, State.ran, List.getLast?_append_of_ne_nil _ hw]

theorem ran_ne_nil {s : State} (h : s.chained = true) : s.ran ≠ [] := by
  obtain ⟨-, -, -, hw⟩ := chained_iff.mp h
  simp [State.ran, hw]

theorem writesIn_ran {s : State} (h : s.chained = true) (r : RegId) :
    writesIn s.ran r = writesIn s.ran.dropLast r + slotWrites (exitOf s.slotW) r := by
  conv_lhs => rw [← dropLast_append_exitOf (ran_ne_nil h), exitOf_ran h, writesIn_append]
  rfl

section
variable (found : Option Instr) {s : State} (h : s.chained = true) (hbusy : s.BusyExact)
include h hbusy

/-- When step 4 begins, the busy counts are the writes of the records still in flight. -/
theorem retired_busyOf (r : RegId) :
    (s.retired found).busyOf r = writesIn s.ran.dropLast r + queueWrites s.keptQueue r := by
  have hs : countOf s.busy r = s.inFlightWrites r := hbusy r
  have hsplit := inFlightWrites_split s r
  have hran := writesIn_ran h r
  rw [retired_eq, busyOf_eq]
  simp only [countOf_adjusted]
  omega

/-- A record past the entry of decode has raised the busy counts of its destinations. -/
theorem busyOf_pos_of_inFlight {p : Nat} {K : InFlight} {r : RegId} (hp : 1 ≤ p)
    (hK : (s.completed found).recordAt p = some K) (hr : r ∈ dsts K.instr) : 0 < (s.retired found).busyOf r := by
  obtain ⟨n, rfl⟩ := Nat.exists_eq_add_of_le' hp
  rw [retired_busyOf found h hbusy]
  rw [State.recordAt, completed_allSlots found h, List.getElem?_cons_succ, Option.join_eq_some_iff] at hK
  have hmem : K ∈ s.ran.dropLast.filterMap id := List.mem_filterMap.mpr ⟨some K, List.mem_of_getElem? hK, rfl⟩
  have hpos : 0 < writesIn s.ran.dropLast r := List.count_pos_iff.mpr (List.mem_flatMap.mpr ⟨K, hmem, hr⟩)
  omega

end

theorem queueWrites_append (q q' : List QEntry) (r : RegId) :
    queueWrites (q ++ q') r = queueWrites q r + queueWrites q' r := by
  simp [queueWrites]

theorem queueWrites_bubbles (k : Nat) (r : RegId) : queueWrites (List.replicate k QEntry.bubble) r = 0 := by
  induction k with
  | zero => rfl
  | succ k ih => exact ih

theorem queueWrites_issuedQueue (found : Option Instr) (s : State) (r : RegId) :
    queueWrites (s.issuedQueue found) r = queueWrites s.keptQueue r + slotWrites (s.issued found) r := by
  unfold State.issuedQueue
  cases s.issued found with
  | some J => simp [queueWrites_append, queueWrites_bubbles]
  | none =>
    by_cases hq : s.keptQueue.isEmpty = true
    · rw [if_pos hq, List.isEmpty_iff.mp hq]
      rfl
    · rw [if_neg hq]
      rfl

/-- Step 5 moves the head of the queue into decode. -/
theorem slotWrites_entered (found : Option Instr) (s : State) (r : RegId) :
    slotWrites (s.entered found) r + queueWrites (s.issuedQueue found).tail r = queueWrites (s.issuedQueue found) r := by
  unfold State.entered
  cases s.issuedQueue found with
  | nil => rfl
  | cons e q => cases e <;> simp [QEntry.toSlot]

/-- A completed cycle keeps the busy counts exact (R182.3). -/
theorem completed_busyExact (found : Option Instr) {s : State} (h : s.chained = true) (hbusy : s.BusyExact) :
    (s.completed found).BusyExact := by
  intro r
  have hs : countOf s.busy r = s.inFlightWrites r := hbusy r
  have hsplit := inFlightWrites_split s r
  have hran := writesIn_ran h r
  have hqueue := queueWrites_issuedQueue found s r
  have hentered := slotWrites_entered found s r
  have htail : (s.completed found).queue = (s.issuedQueue found).tail := rfl
  rw [inFlightWrites_eq, completed_allSlots found h, writesIn_cons, htail, busyOf_eq]
  show countOf (adjusted s.busy (fun r => s.killedWrites r + slotWrites (exitOf s.slotW) r) (slotWrites (s.issued found))) r = _
  rw [countOf_adjusted]
  show _ = slotWrites (s.entered found) r + _ + _
  omega

/-! ### The stall count of a cycle (R207, R210) -/

theorem bubbles_spec {found : Option Instr} {s : State} {J : InFlight} (h : s.issued found = some J) :
    stallCount (s.transit found) (s.retired found) J.instr = .ok (s.bubbles found) := by
  obtain ⟨k, hk⟩ := stallCount_ok (s.transit found) (s.retired found) J.instr
  simp [State.bubbles, h, hk, Except.toOption]

theorem retired_lat (found : Option Instr) (s : State) : (s.retired found).lat = s.lat := by rw [retired_eq]; rfl
theorem retired_fwdCfg (found : Option Instr) (s : State) : (s.retired found).fwdCfg = s.fwdCfg := by rw [retired_eq]; rfl

/-- A producer stands past the entry of decode after the cycle (R201). -/
theorem recordAt_of_mem_producers {found : Option Instr} {s : State} (h : s.Sized) {J : Instr} {K : InFlight} {p : Nat}
    (hp : (K, p) ∈ producers (s.transit found) (s.retired found) J) :
    1 ≤ p ∧ (s.completed found).recordAt p = some K :=
  (mem_inFlightAt found h).mp (List.mem_of_mem_filter hp)

theorem State.Sized.total_pos {s : State} (h : s.Sized) : 1 ≤ s.lat.total := by
  have := h.positive
  unfold Latencies.total
  omega

/-- A fetched instruction gets fewer than P bubbles (R212). -/
theorem bubbles_lt {found : Option Instr} {s : State} (h : s.Sized) : s.bubbles found < s.lat.total := by
  cases hJ : s.issued found with
  | none =>
    have hP := h.total_pos
    simp only [State.bubbles, hJ]
    exact hP
  | some J =>
    have hlt := stallCount_lt (bubbles_spec hJ) (by rw [retired_lat]; exact h.total_pos)
      fun p hp => (recordAt_of_mem_producers h hp).1
    rwa [retired_lat] at hlt

/-- With exact busy counts, the producers are the records past the entry of decode that write a source. -/
theorem mem_producers {found : Option Instr} {s : State} (h : s.Sized) (hbusy : s.BusyExact) {J : Instr} {K : InFlight}
    {p : Nat} : (K, p) ∈ producers (s.transit found) (s.retired found) J ↔
      (1 ≤ p ∧ (s.completed found).recordAt p = some K) ∧ ∃ r ∈ srcs J, r ∈ dsts K.instr := by
  rw [producers, List.mem_filter, mem_inFlightAt found h, isProducer_iff]
  refine and_congr_right fun ⟨hp, hK⟩ => ⟨fun ⟨r, hr, hd, _⟩ => ⟨r, hr, hd⟩, fun ⟨r, hr, hd⟩ => ⟨r, hr, hd, ?_⟩⟩
  exact busyOf_pos_of_inFlight found h.chained hbusy hp hK hd

/-- With exact busy counts, a count releases an instruction when every producer allows it (R200 to R208). -/
theorem releases_iff {found : Option Instr} {s : State} (h : s.Sized) (hbusy : s.BusyExact) {J : Instr} {k : Nat} :
    (s.completed found).Releases J k ↔ ∀ p ∈ producers (s.transit found) (s.retired found) J,
      viable s.lat s.fwdCfg (rraOf p.1.instr) (p.2 + k) = true := by
  constructor
  · rintro hrel ⟨K, p⟩ hmem
    obtain ⟨⟨hp, hK⟩, hsrc⟩ := (mem_producers h hbusy).mp hmem
    exact viable_iff.mpr (hrel p K hp hK hsrc)
  · intro hall p K hp hK hsrc
    exact viable_iff.mp (hall (K, p) ((mem_producers h hbusy).mpr ⟨⟨hp, hK⟩, hsrc⟩))

/-- The bubbles of a fetched instruction are the least count that releases it (R207). -/
theorem bubbles_least {found : Option Instr} {s : State} (h : s.Sized) (hbusy : s.BusyExact) {J : InFlight}
    (hJ : s.issued found = some J) : (s.completed found).Releases J.instr (s.bubbles found) ∧
      ∀ k' < s.bubbles found, ¬ (s.completed found).Releases J.instr k' := by
  obtain ⟨hall, hleast⟩ := stallCount_spec (bubbles_spec hJ)
  rw [retired_lat, retired_fwdCfg] at hall hleast
  refine ⟨(releases_iff h hbusy).mpr hall, fun k' hk' hrel => ?_⟩
  obtain ⟨p, hp, hv⟩ := hleast k' hk'
  rw [(releases_iff h hbusy).mp hrel p hp] at hv
  cases hv

/-! ### The issue queue (R24, R174, R175, R210) -/

theorem issued_of_fetch {found : Option Instr} {s : State} (hno : s.redirects = false) {i : Instr} (hq : s.queue = [])
    (hf : found = some i) : s.issued found = some (InFlight.fresh i s.pc) := by
  simp [State.issued, State.fetched, hno, hq, hf]

theorem issued_of_no_fetch {found : Option Instr} {s : State} (h : s.queue ≠ [] ∨ found = none) : s.issued found = none := by
  obtain h | rfl := h
  · simp [State.issued, State.fetched, h]
  · simp [State.issued, State.fetched]

theorem issuedQueue_of_fetch {found : Option Instr} {s : State} (hno : s.redirects = false) {i : Instr} (hq : s.queue = [])
    (hf : found = some i) : s.issuedQueue found = holdQueue (s.bubbles found) (InFlight.fresh i s.pc) := by
  simp [State.issuedQueue, issued_of_fetch hno hq hf, State.keptQueue, hno, hq, holdQueue]

theorem issuedQueue_of_no_fetch {found : Option Instr} {s : State} (hno : s.redirects = false)
    (h : s.queue ≠ [] ∨ found = none) : s.issuedQueue found = if s.queue.isEmpty then [.bubble] else s.queue := by
  simp [State.issuedQueue, issued_of_no_fetch h, State.keptQueue, hno]

theorem holdQueue_ne_nil (j : Nat) (I : InFlight) : holdQueue j I ≠ [] := by simp [holdQueue]

theorem completed_queue (found : Option Instr) (s : State) :
    (s.completed found).queue = (s.issuedQueue found).tail := rfl

theorem completed_hazardBubbles (found : Option Instr) (s : State) :
    (s.completed found).hazardBubbles = s.hazardBubbles + BitVec.ofNat 64 (s.bubbles found) := rfl

/-- What a queue that is a record behind bubbles gives to step 5: the record, or a bubble with the rest held (R175, R210). -/
theorem completed_of_holdQueue {found : Option Instr} {s : State} (hc : s.chained = true) {k : Nat} {I : InFlight}
    (hq : s.issuedQueue found = holdQueue k I) :
    (k = 0 → (s.completed found).queue = [] ∧ (s.completed found).recordAt 0 = some I) ∧
      (0 < k → (s.completed found).queue = holdQueue (k - 1) I ∧ (s.completed found).recordAt 0 = none) := by
  rw [completed_queue, completed_recordAt_zero found hc, State.entered, hq]
  cases k with
  | zero => exact ⟨fun _ => ⟨rfl, rfl⟩, fun h => absurd h (Nat.lt_irrefl 0)⟩
  | succ k => exact ⟨fun h => absurd h (Nat.succ_ne_zero k), fun _ => ⟨rfl, rfl⟩⟩

/-- Without a fetch no bubbles are given. -/
theorem completed_hazardBubbles_of_no_issue {found : Option Instr} {s : State} (h : s.issued found = none) :
    (s.completed found).hazardBubbles = s.hazardBubbles := by
  have hk : s.bubbles found = 0 := by simp [State.bubbles, h]
  rw [completed_hazardBubbles, hk]
  exact BitVec.add_zero _

/-- Settles O40: the queue that step 4 leaves is HOLD of the fetched record, a bubble, or the queue as it was, and step 5 takes its
head. -/
theorem issueQueueStateMachine : Obligations.IssueQueueStateMachine := by
  unfold Obligations.IssueQueueStateMachine
  intro found s hsized _ hend
  obtain ⟨heq, hc, -⟩ := cycleWith_eq_completed hend
  simp only [heq]
  refine ⟨fun hjump => ?_, fun hjump => completed_of_redirects found (redirects_eq_true.mpr hjump) hc⟩
  have hno := redirects_eq_false.mpr hjump
  refine ⟨fun i hq hf => ?_, fun hq hf => ?_, fun j I hq => ?_, fun I hq => ?_⟩
  · obtain ⟨hzero, hpos⟩ := completed_of_holdQueue hc (issuedQueue_of_fetch hno hq hf)
    exact ⟨s.bubbles found, bubbles_lt hsized, rfl, fun hbusy => bubbles_least hsized hbusy (issued_of_fetch hno hq hf),
      hzero, hpos⟩
  · have hqueue : s.issuedQueue found = [.bubble] := by rw [issuedQueue_of_no_fetch hno (.inr hf), hq]; rfl
    refine ⟨by rw [completed_queue, hqueue]; rfl, ?_, completed_hazardBubbles_of_no_issue (issued_of_no_fetch (.inr hf))⟩
    rw [completed_recordAt_zero found hc, State.entered, hqueue]
    rfl
  · have hne : s.queue ≠ [] := by rw [hq]; exact holdQueue_ne_nil _ _
    have hqueue : s.issuedQueue found = holdQueue (j + 1) I := by
      rw [issuedQueue_of_no_fetch hno (.inl hne), hq]; rfl
    obtain ⟨hkept, hentry⟩ := (completed_of_holdQueue hc hqueue).2 (Nat.succ_pos j)
    exact ⟨hkept, hentry, completed_hazardBubbles_of_no_issue (issued_of_no_fetch (.inl hne))⟩
  · have hne : s.queue ≠ [] := by rw [hq]; exact holdQueue_ne_nil _ _
    have hqueue : s.issuedQueue found = holdQueue 0 I := by rw [issuedQueue_of_no_fetch hno (.inl hne), hq]; rfl
    obtain ⟨hkept, hentry⟩ := (completed_of_holdQueue hc hqueue).1 rfl
    exact ⟨hkept, hentry, completed_hazardBubbles_of_no_issue (issued_of_no_fetch (.inl hne))⟩

end Sys2Proof.Machine

namespace Sys2Proof.Machine

/-! ### What a cycle does to the queue (R182.2, R210, R213) -/

/-- The queue after a completed cycle, from a queue of the shape of R182.2: a redirection empties it; IDLE stays IDLE without a
fetch; a record enters decode; a fetched record is held; a held record waits one bubble less. -/
theorem completed_queue_cases (found : Option Instr) {s : State} (hc : s.chained = true) (hshape : s.QueueShaped) :
    (s.redirects = true ∧ (s.completed found).queue = []) ∨
    (s.redirects = false ∧ s.queue = [] ∧ found = none ∧ (s.completed found).queue = []) ∨
    ((s.completed found).queue = [] ∧ ∃ I, (s.completed found).recordAt 0 = some I) ∨
    (∃ J, s.issued found = some J ∧ 0 < s.bubbles found ∧
      (s.completed found).queue = holdQueue (s.bubbles found - 1) J) ∨
    (s.redirects = false ∧ ∃ j I, s.queue = holdQueue (j + 1) I ∧ (s.completed found).queue = holdQueue j I) := by
  cases hno : s.redirects with
  | true => exact .inl ⟨rfl, (completed_of_redirects found hno hc).1⟩
  | false =>
    refine .inr ?_
    obtain hq | ⟨j, I, hq, -⟩ := hshape
    · cases found with
      | none =>
        refine .inl ⟨rfl, hq, rfl, ?_⟩
        rw [completed_queue, issuedQueue_of_no_fetch hno (.inr rfl), hq]
        rfl
      | some i =>
        obtain ⟨hzero, hpos⟩ := completed_of_holdQueue hc (issuedQueue_of_fetch hno hq rfl)
        obtain hk | hk := Nat.eq_zero_or_pos (s.bubbles (some i))
        · exact .inr (.inl ⟨(hzero hk).1, _, (hzero hk).2⟩)
        · exact .inr (.inr (.inl ⟨_, issued_of_fetch hno hq rfl, hk, (hpos hk).1⟩))
    · have hne : s.queue ≠ [] := by rw [hq]; exact holdQueue_ne_nil _ _
      have hqueue : s.issuedQueue found = holdQueue j I := by
        rw [issuedQueue_of_no_fetch hno (.inl hne), hq]
        cases j <;> rfl
      obtain ⟨hzero, hpos⟩ := completed_of_holdQueue hc hqueue
      cases j with
      | zero => exact .inr (.inl ⟨(hzero rfl).1, I, (hzero rfl).2⟩)
      | succ j => exact .inr (.inr (.inr ⟨rfl, j, I, hq, (hpos (Nat.succ_pos j)).1⟩))

theorem holdQueue_inj {j j' : Nat} {I I' : InFlight} (h : holdQueue j I = holdQueue j' I') : j = j' ∧ I = I' := by
  induction j generalizing j' with
  | zero =>
    cases j' with
    | zero => simpa [holdQueue] using h
    | succ j' => simp [holdQueue, List.replicate_succ] at h
  | succ j ih =>
    cases j' with
    | zero => simp [holdQueue, List.replicate_succ] at h
    | succ j' =>
      obtain ⟨hj, hI⟩ := ih (List.cons.inj h).2
      exact ⟨congrArg Nat.succ hj, hI⟩

theorem completed_queueShaped (found : Option Instr) {s : State} (h : s.Sized) (hshape : s.QueueShaped) :
    (s.completed found).QueueShaped := by
  have hk := bubbles_lt (found := found) h
  obtain ⟨-, hq⟩ | ⟨-, -, -, hq⟩ | ⟨hq, -⟩ | ⟨J, -, hpos, hq⟩ | ⟨-, j, I, hold, hq⟩ :=
    completed_queue_cases found h.chained hshape
  · exact .inl hq
  · exact .inl hq
  · exact .inl hq
  · refine .inr ⟨_, J, hq, ?_⟩
    show _ ≤ s.lat.total
    omega
  · obtain hnil | ⟨j', I', hq', hj'⟩ := hshape
    · rw [hold] at hnil
      exact absurd hnil (holdQueue_ne_nil _ _)
    · obtain ⟨rfl, rfl⟩ := holdQueue_inj (hold.symm.trans hq')
      refine .inr ⟨j, I, hq, ?_⟩
      show _ ≤ s.lat.total
      omega

/-- Without a redirection a record that is not at the exit moves on (R158). -/
theorem completed_recordAt_isSome (found : Option Instr) {s : State} (h : s.Sized) (hno : s.redirects = false) {q : Nat}
    (hq : q + 1 < s.lat.total) : ((s.completed found).recordAt (q + 1)).isSome = (s.recordAt q).isSome := by
  have hid : ((s.completed found).recordAt (q + 1)).map InFlight.identity = (s.recordAt q).map InFlight.identity := by
    rw [completed_recordAt_succ found h.chained (by rw [h.allSlots_length]; exact hq), map_identity_get, identities_ran hno,
      ← map_identity_get]
    rfl
  simpa using congrArg Option.isSome hid

/-- While bubbles are to come before a held record, a record stands far enough back (R213): the producer that one bubble less would
not satisfy, and then the same record, moving on with each bubble. -/
theorem completed_holdBacked (found : Option Instr) {s : State} (h : s.Sized) (hshape : s.QueueShaped) (hback : s.HoldBacked) :
    (s.completed found).HoldBacked := by
  intro j I hj
  have hnil : (s.completed found).queue ≠ [] := by rw [hj]; exact holdQueue_ne_nil _ _
  obtain ⟨-, hq⟩ | ⟨-, -, -, hq⟩ | ⟨hq, -⟩ | ⟨J, hJ, hpos, hq⟩ | ⟨hno, j', I', hold, hq⟩ :=
    completed_queue_cases found h.chained hshape
  · exact absurd hq hnil
  · exact absurd hq hnil
  · exact absurd hq hnil
  · obtain ⟨rfl, -⟩ := holdQueue_inj (hj.symm.trans hq)
    obtain ⟨-, hleast⟩ := stallCount_spec (bubbles_spec hJ)
    obtain ⟨⟨K, p⟩, hp, hv⟩ := hleast (s.bubbles found - 1) (by omega)
    obtain ⟨hp1, hK⟩ := recordAt_of_mem_producers h hp
    refine ⟨p, hp1, ?_, by rw [hK]; rfl⟩
    rw [retired_lat] at hv
    by_contra hge
    have hle : s.lat.total ≤ p + (s.bubbles found - 1) := Nat.le_of_not_lt hge
    exact absurd (viable_iff.mpr (.inl hle)) (Bool.eq_false_iff.mp hv)
  · obtain ⟨rfl, -⟩ := holdQueue_inj (hj.symm.trans hq)
    obtain ⟨p, hp, hlt, hsome⟩ := hback _ _ hold
    refine ⟨p + 1, by omega, ?_, ?_⟩
    · show _ < s.lat.total
      omega
    · rw [completed_recordAt_isSome found h hno (by omega)]
      exact hsome

/-! ### isDone (R178) -/

theorem isDone_iff {s : State} : s.isDone = true ↔ ∀ q, s.recordAt q = none := by
  rw [State.isDone, List.all_eq_true]
  constructor
  · intro hall q
    cases hq : s.allSlots[q]? with
    | none => rw [State.recordAt, hq]; rfl
    | some e =>
      rw [State.recordAt, hq]
      exact Option.isNone_iff_eq_none.mp (hall e (List.mem_of_getElem? hq))
  · intro hnone e he
    obtain ⟨q, hq⟩ := List.getElem?_of_mem he
    have := hnone q
    rw [State.recordAt, hq] at this
    exact Option.isNone_iff_eq_none.mpr this

theorem exists_oldest_jump {l : List (Option InFlight)} (h : (redirectTarget l).isSome = true) :
    ∃ younger R older index26, l = younger ++ some R :: older ∧ R.instr = .j index26 ∧ redirectTarget older = none := by
  induction l with
  | nil => cases h
  | cons e l ih =>
    cases hl : redirectTarget l with
    | some t =>
      obtain ⟨younger, R, older, index26, rfl, hR, hold⟩ := ih (by rw [hl]; rfl)
      exact ⟨e :: younger, R, older, index26, rfl, hR, hold⟩
    | none =>
      rw [redirectTarget, hl, Option.none_or, Option.isSome_iff_exists] at h
      obtain ⟨t, ht⟩ := h
      obtain ⟨R, rfl, hR⟩ := Option.bind_eq_some_iff.mp ht
      obtain ⟨index26, hi, -⟩ := targetOf_eq_some.mp hR
      exact ⟨[], R, l, index26, rfl, hi, hl⟩

/-- A jump that redirects moves on by one position, so the pipeline is not empty after the cycle (R234). -/
theorem completed_not_done_of_redirects (found : Option Instr) {s : State} (h : s.Sized) (hjump : s.redirects = true) :
    (s.completed found).isDone ≠ true := by
  intro hdone
  obtain ⟨younger, R, older, -, hE, -, hold⟩ := exists_oldest_jump hjump
  obtain ⟨hget, hdrop⟩ := chain_get_append younger older (some R)
  have hn : younger.length < s.lat.e := by rw [← h.execute, hE]; simp
  have hat := isDone_iff.mp hdone (s.lat.d + younger.length + 1)
  rw [completed_recordAt_execute found h hn, hE, hget, hdrop, hold] at hat
  cases hat

/-- Settles O45: of the ways the queue can end, a redirection and a record entering decode leave a record in a slot, and a held
record has one behind it; what is left is IDLE without a fetch. -/
theorem doneAfterACycleMeansDrained : Obligations.DoneAfterACycleMeansDrained := by
  unfold Obligations.DoneAfterACycleMeansDrained
  intro s hinv _ hend hdone
  obtain ⟨heq, hc, -⟩ := cycleWith_eq_completed (found := imem s.prog s.pc) hend
  unfold cycle at hdone ⊢
  rw [heq] at hdone ⊢
  have hnone := isDone_iff.mp hdone
  have hback := completed_holdBacked (imem s.prog s.pc) hinv.sized hinv.queueShaped hinv.holdBacked
  have hheld : ∀ j I, (s.completed (imem s.prog s.pc)).queue ≠ holdQueue j I := fun j I hq => by
    obtain ⟨p, -, -, hsome⟩ := hback j I hq
    rw [hnone p] at hsome
    cases hsome
  obtain ⟨hjump, -⟩ | ⟨hno, hidle, hfound, hq⟩ | ⟨-, I, hI⟩ | ⟨J, -, -, hq⟩ | ⟨-, j, I, -, hq⟩ :=
    completed_queue_cases (imem s.prog s.pc) hc hinv.queueShaped
  · exact absurd hdone (completed_not_done_of_redirects _ hinv.sized hjump)
  · refine ⟨hq, ?_⟩
    have hpc : (s.completed (imem s.prog s.pc)).pc = s.pc := by
      show s.nextPc _ = s.pc
      simp [State.nextPc, State.fetched, hidle, hfound, redirectTarget_eq_none.mpr (redirects_eq_false.mp hno)]
    rw [hpc]
    exact hfound
  · rw [hnone 0] at hI
    cases hI
  · exact absurd hq (hheld _ _)
  · exact absurd hq (hheld _ _)

end Sys2Proof.Machine

namespace Sys2Proof.Machine

/-! ### The invariant through a cycle (R182) -/

theorem completed_sized (found : Option Instr) {s : State} (h : s.Sized) : (s.completed found).Sized := by
  obtain ⟨hd, he, hm, hw⟩ := h.positive
  refine ⟨h.latencies, ?_, ?_, ?_, ?_⟩
  · show (s.entered found :: s.ranD.dropLast).length = s.lat.d
    rw [List.length_cons, List.length_dropLast, ranD_length, h.decode, Nat.sub_add_cancel hd]
  · show (exitOf s.ranD :: s.ranE.dropLast).length = s.lat.e
    rw [List.length_cons, List.length_dropLast, ranE_length, h.execute, Nat.sub_add_cancel he]
  · show (exitOf s.ranE :: s.ranM.dropLast).length = s.lat.m
    rw [List.length_cons, List.length_dropLast, ranM_length, h.memory, Nat.sub_add_cancel hm]
  · show (exitOf s.ranM :: s.slotW.dropLast).length = s.lat.w
    rw [List.length_cons, List.length_dropLast, h.writeback, Nat.sub_add_cancel hw]

theorem mem_records {s : State} {I : InFlight} : I ∈ s.records ↔ some I ∈ s.allSlots ∨ .held I ∈ s.queue := by
  simp only [State.records, State.slotRecords, List.mem_append, List.mem_filterMap]
  refine or_congr (by simp) ⟨fun ⟨e, he, hI⟩ => ?_, fun h => ⟨_, h, rfl⟩⟩
  cases e with
  | bubble => cases hI
  | held K => cases hI; exact he

theorem identity_of_mem_loaded {l : List (Option InFlight)} {m : Memory} {I : InFlight} (h : some I ∈ loaded l m) :
    ∃ K, some K ∈ l ∧ I.identity = K.identity := by
  induction l with
  | nil => cases h
  | cons e older ih =>
    obtain hI | hI := List.mem_cons.mp h
    · obtain ⟨K, rfl, rfl⟩ := Option.map_eq_some_iff.mp hI.symm
      exact ⟨K, List.mem_cons_self .., loadFrom_identity _ K⟩
    · obtain ⟨K, hK, hid⟩ := ih hI
      exact ⟨K, List.mem_cons_of_mem _ hK, hid⟩

theorem identity_of_mem_executed {l : List (Option InFlight)} {regs : Vector Word 32} {I : InFlight}
    (h : some I ∈ executed regs l) : ∃ K, some K ∈ l ∧ I.identity = K.identity := by
  induction l with
  | nil => cases h
  | cons e older ih =>
    obtain hI | hI := List.mem_cons.mp h
    · split at hI
      · cases hI
      · obtain ⟨K, rfl, rfl⟩ := Option.map_eq_some_iff.mp hI.symm
        exact ⟨K, List.mem_cons_self .., computed_identity _ K⟩
    · obtain ⟨K, hK, hid⟩ := ih hI
      exact ⟨K, List.mem_cons_of_mem _ hK, hid⟩

/-- What a chain holds after its behaviours have run, it held before. -/
theorem identity_of_mem_ran {s : State} {I : InFlight} (h : some I ∈ s.ran) :
    ∃ K, some K ∈ s.allSlots ∧ I.identity = K.identity := by
  simp only [State.ran, State.allSlots, List.mem_append] at h ⊢
  obtain ((hI | hI) | hI) | hI := h
  · unfold State.ranD at hI
    split at hI
    · simp at hI
    · exact ⟨I, .inl (.inl (.inl hI)), rfl⟩
  · obtain ⟨K, hK, hid⟩ := identity_of_mem_executed hI
    exact ⟨K, .inl (.inl (.inr hK)), hid⟩
  · obtain ⟨K, hK, hid⟩ := identity_of_mem_loaded hI
    exact ⟨K, .inl (.inr hK), hid⟩
  · exact ⟨I, .inr hI, rfl⟩

theorem held_of_mem_issuedQueue {found : Option Instr} {s : State} {I : InFlight} (h : .held I ∈ s.issuedQueue found) :
    .held I ∈ s.queue ∨ s.issued found = some I := by
  have hkept : .held I ∈ s.keptQueue → QEntry.held I ∈ s.queue := fun hI => by
    unfold State.keptQueue at hI
    split at hI
    · cases hI
    · exact hI
  unfold State.issuedQueue at h
  split at h
  next J hJ =>
    simp only [List.mem_append, List.mem_replicate, List.mem_singleton, reduceCtorEq, and_false, or_false] at h
    obtain hI | hI := h
    · exact .inl (hkept hI)
    · exact .inr (by rw [hJ, QEntry.held.inj hI])
  · split at h
    · simp at h
    · exact .inl (hkept h)

theorem head_toSlot_eq_some {q : List QEntry} {I : InFlight} (h : (q.head?.map QEntry.toSlot).join = some I) : .held I ∈ q := by
  cases q with
  | nil => cases h
  | cons e q =>
    cases e with
    | bubble => cases h
    | held K => cases h; exact List.mem_cons_self ..

theorem issued_eq_some {found : Option Instr} {s : State} {I : InFlight} (h : s.issued found = some I) :
    ∃ i, found = some i ∧ s.queue = [] ∧ I = InFlight.fresh i s.pc := by
  unfold State.issued State.fetched at h
  split at h
  · cases h
  split at h
  next hq =>
    obtain ⟨i, hi, hI⟩ := Option.map_eq_some_iff.mp h
    exact ⟨i, hi, List.isEmpty_iff.mp hq, hI.symm⟩
  · cases h

/-- Every record in flight after a cycle was in flight before it, or is the fetched one (R23, R171). -/
theorem completed_fromProgram {found : Option Instr} {s : State} (hc : s.chained = true) (h : s.FromProgram)
    (hfound : ∀ i, s.queue = [] → found = some i → imem s.prog s.pc = some i) : (s.completed found).FromProgram := by
  have hissued : ∀ I, .held I ∈ s.issuedQueue found → imem s.prog I.addr = some I.instr := fun I hI => by
    obtain hq | hJ := held_of_mem_issuedQueue hI
    · exact h I (mem_records.mpr (.inr hq))
    · obtain ⟨i, hi, hq, rfl⟩ := issued_eq_some hJ
      exact hfound i hq hi
  intro I hI
  show imem s.prog I.addr = some I.instr
  rw [mem_records, completed_allSlots found hc, List.mem_cons] at hI
  obtain (hI | hI) | hI := hI
  · exact hissued I (head_toSlot_eq_some hI.symm)
  · obtain ⟨K, hK, hid⟩ := identity_of_mem_ran (List.mem_of_mem_dropLast hI)
    have hinstr : I.instr = K.instr := congrArg Prod.fst hid
    have haddr : I.addr = K.addr := congrArg Prod.snd hid
    rw [hinstr, haddr]
    exact h K (mem_records.mpr (.inl hK))
  · exact hissued I (List.mem_of_mem_tail hI)

theorem jumpTarget_aligned (addr : Word) (index26 : BitVec 26) : (jumpTarget addr index26).extractLsb' 0 2 = 0#2 :=
  BitVec.extractLsb'_append_eq_right

theorem add_four_aligned {a : Word} (h : a.extractLsb' 0 2 = 0#2) : (a + 4#32).extractLsb' 0 2 = 0#2 := by
  rw [← BitVec.toNat_inj] at h ⊢
  simp only [BitVec.extractLsb'_toNat, Nat.shiftRight_zero, BitVec.toNat_add, BitVec.toNat_ofNat] at h ⊢
  omega

theorem nextPc_aligned (found : Option Instr) {s : State} (h : s.pc.extractLsb' 0 2 = 0#2) :
    (s.nextPc found).extractLsb' 0 2 = 0#2 := by
  unfold State.nextPc
  cases ht : redirectTarget s.slotE with
  | some t =>
    obtain ⟨younger, R, older, index26, hE, hR, hold⟩ := exists_oldest_jump (l := s.slotE) (by rw [ht]; rfl)
    rw [hE, redirectTarget_oldest hR (redirectTarget_eq_none.mp hold)] at ht
    cases ht
    exact jumpTarget_aligned _ _
  | none =>
    rw [Option.getD_none]
    split
    · exact add_four_aligned h
    · exact h

theorem completed_trace_length (found : Option Instr) {s : State} (h : BitVec.ofNat 64 s.trace.length = s.committed) :
    BitVec.ofNat 64 (s.completed found).trace.length = (s.completed found).committed := by
  simp only [State.completed, ← h]
  cases exitOf s.slotW <;> simp [BitVec.ofNat_add]

theorem completed_inv {found : Option Instr} {s : State} (h : s.Inv)
    (hfound : ∀ i, s.queue = [] → found = some i → imem s.prog s.pc = some i) : (s.completed found).Inv where
  sized := completed_sized found h.sized
  program := h.program
  frequencies := h.frequencies
  queueShaped := completed_queueShaped found h.sized h.queueShaped
  holdBacked := completed_holdBacked found h.sized h.queueShaped h.holdBacked
  busyExact := completed_busyExact found h.sized.chained h.busyExact
  fromProgram := completed_fromProgram h.sized.chained h.fromProgram hfound
  fwdCfg := h.fwdCfg
  pcAligned := nextPc_aligned found h.pcAligned
  memory := stored_wf _ h.memory
  code := h.code
  trace := completed_trace_length found h.trace
  constructed := h.constructed

/-- The invariant looks at none of the host's fields, and at the fault code in one clause only. -/
theorem State.Inv.withHost {s : State} (h : s.Inv) {f : BitVec 4} (hf : reachableCode f = true) (n : Nat)
    (inbox : List HostInput) (responses : List Word) :
    State.Inv { s with fault := f, runLeft := n, inbox := inbox, responses := responses } where
  sized := ⟨h.sized.latencies, h.sized.decode, h.sized.execute, h.sized.memory, h.sized.writeback⟩
  program := h.program
  frequencies := h.frequencies
  queueShaped := h.queueShaped
  holdBacked := h.holdBacked
  busyExact := h.busyExact
  fromProgram := h.fromProgram
  fwdCfg := h.fwdCfg
  pcAligned := h.pcAligned
  memory := h.memory
  code := hf
  trace := h.trace
  constructed := h.constructed

/-- A cycle that fetches what stands at `pc`, or nothing, keeps the invariant, whether it completes or is rolled back. -/
theorem cycleWith_inv {found : Option Instr} {s : State} (h : s.Inv)
    (hfound : ∀ i, s.queue = [] → found = some i → imem s.prog s.pc = some i) : (cycleWith found s).Inv := by
  by_cases hf : s.fault = 0#4
  · rw [cycleWith_of_sized found h.sized hf]
    split
    · exact h.withHost (f := 7#4) (by decide) s.runLeft s.inbox s.responses
    · exact completed_inv h hfound
  · rw [cycleWith, if_neg hf]
    exact h

/-! ### The invariant through the host's commands -/

theorem enterFaulted_inv {s : State} (h : s.Inv) {k : FaultKind} (hk : reachableCode k.code = true) :
    (enterFaulted k s).Inv := by
  unfold enterFaulted
  split
  · exact h.withHost hk s.runLeft s.inbox s.responses
  · exact h

theorem acceptForwarding_inv {s : State} (h : s.Inv) {source target : Stage} (hedge : edgeSupported source target = true) :
    (acceptForwarding source target s).Inv where
  sized := ⟨h.sized.latencies, h.sized.decode, h.sized.execute, h.sized.memory, h.sized.writeback⟩
  program := h.program
  frequencies := h.frequencies
  queueShaped := h.queueShaped
  holdBacked := h.holdBacked
  busyExact := h.busyExact
  fromProgram := h.fromProgram
  fwdCfg := by
    have hbit : (1#16 <<< edgeBit source target) &&& 0xFDDF#16 = 0#16 := by
      obtain hst | hst := edgeSupported_iff.mp hedge <;> cases hst <;> decide
    show (s.fwdCfg ||| 1#16 <<< edgeBit source target) &&& 0xFDDF#16 = 0#16
    rw [BitVec.and_comm, BitVec.and_or_distrib_left, BitVec.and_comm, h.fwdCfg, BitVec.and_comm, hbit]
    rfl
  pcAligned := h.pcAligned
  memory := h.memory
  code := h.code
  trace := h.trace
  constructed := h.constructed

theorem execSetupFwd_inv {source target : Stage} {s t : State} (h : s.Inv) (hs : execSetupFwd source target s = .next t) :
    t.Inv := by
  cases hs
  split
  · exact h
  split
  · exact enterFaulted_inv h (by decide)
  split
  · exact enterFaulted_inv h (by decide)
  next hedge => exact acceptForwarding_inv h (by simpa using hedge)

/-- The state that FLUSH_ALL leaves outside the FAULTED state (R254). -/
def State.flushed (s : State) : State :=
  { s with
    slotD := List.replicate s.slotD.length none, slotE := List.replicate s.slotE.length none
    slotM := List.replicate s.slotM.length none, slotW := List.replicate s.slotW.length none
    queue := [], busy := Vector.replicate 32 0 }

theorem map_none_eq_replicate (l : List (Option InFlight)) :
    (l.map fun _ => (none : Option InFlight)) = List.replicate l.length none := List.map_const' ..

theorem execFlushAll_eq {s : State} (h : s.fault = 0#4) : execFlushAll s = .next s.flushed := by
  rw [execFlushAll, if_pos h]
  simp only [flushStages, flush, slots_decode, slots_execute, slots_memory, slots_writeback, map_none_eq_replicate]
  rfl

theorem countOf_replicate (r : RegId) : countOf (Vector.replicate 32 0) r = 0 := by simp [countOf]

theorem mem_allSlots_of_flushed {s : State} {e : Option InFlight} (h : e ∈ s.flushed.allSlots) : e = none := by
  simp only [State.flushed, State.allSlots, List.mem_append, List.mem_replicate] at h
  tauto

/-- Empty chains and an empty queue hold no record. -/
theorem records_eq_nil {s : State} (hslots : ∀ e ∈ s.allSlots, e = none) (hq : s.queue = []) : s.records = [] :=
  List.eq_nil_iff_forall_not_mem.mpr fun I hI => by
    obtain hI | hI := mem_records.mp hI
    · cases hslots _ hI
    · rw [hq] at hI
      cases hI

theorem busyExact_of_no_record {s : State} (hr : s.records = []) (hb : s.busy = Vector.replicate 32 0) : s.BusyExact := by
  intro r
  rw [busyOf_eq, hb, countOf_replicate, State.inFlightWrites, hr]
  rfl

theorem fromProgram_of_no_record {s : State} (hr : s.records = []) : s.FromProgram := by
  intro I hI
  rw [hr] at hI
  cases hI

theorem holdBacked_of_empty {s : State} (hq : s.queue = []) : s.HoldBacked := fun j I hj =>
  absurd (hq.symm.trans hj).symm (holdQueue_ne_nil j I)

theorem flushed_inv {s : State} (h : s.Inv) : s.flushed.Inv where
  sized := ⟨h.sized.latencies, by simp [State.flushed, h.sized.decode], by simp [State.flushed, h.sized.execute],
    by simp [State.flushed, h.sized.memory], by simp [State.flushed, h.sized.writeback]⟩
  program := h.program
  frequencies := h.frequencies
  queueShaped := .inl rfl
  holdBacked := holdBacked_of_empty rfl
  busyExact := busyExact_of_no_record (records_eq_nil (fun _ => mem_allSlots_of_flushed) rfl) rfl
  fromProgram := fromProgram_of_no_record (records_eq_nil (fun _ => mem_allSlots_of_flushed) rfl)
  fwdCfg := h.fwdCfg
  pcAligned := h.pcAligned
  memory := h.memory
  code := h.code
  trace := h.trace
  constructed := h.constructed

/-- Every host command keeps the invariant. -/
theorem exec_command_inv {c : Instr} {s t : State} (hc : c.isCommand = true) (h : s.Inv) (hs : exec c s = .next t) : t.Inv := by
  cases c with
  | nop => cases hs; exact h
  | run n =>
    cases hs
    split
    · exact h.withHost h.code _ s.inbox s.responses
    · exact h
  | setupFwd source target => exact execSetupFwd_inv h hs
  | flushAll =>
    by_cases hf : s.fault = 0#4
    · rw [exec, execFlushAll_eq hf] at hs
      cases hs
      exact flushed_inv h
    · rw [exec, execFlushAll, if_neg hf] at hs
      cases hs
      exact h
  | read index => cases hs; exact h.withHost h.code s.runLeft s.inbox _
  | add | sub | andi | lw | sw | j => cases hc

/-! ### The invariant after construction (R39, R251) -/

theorem initial_inv {lat : Latencies} {freq : Frequencies} {prog : List Instr} {rf0 : Vector Word 32} {mem0 : Memory}
    (hlat : lat.wf = true) (hfreq : freq.wf = true) (hprog : programWf prog = true) (hmem : Memory.wf mem0 = true) :
    (State.initial lat freq prog rf0 mem0).Inv := by
  have hslots : ∀ e ∈ (State.initial lat freq prog rf0 mem0).allSlots, e = none := fun e he => by
    simp only [State.initial, State.allSlots, List.mem_append, List.mem_replicate] at he
    tauto
  have hrecords := records_eq_nil hslots rfl
  exact {
    sized := ⟨hlat, List.length_replicate .., List.length_replicate .., List.length_replicate .., List.length_replicate ..⟩
    program := hprog
    frequencies := hfreq
    queueShaped := .inl rfl
    holdBacked := holdBacked_of_empty rfl
    busyExact := busyExact_of_no_record hrecords rfl
    fromProgram := fromProgram_of_no_record hrecords
    fwdCfg := (by decide : 0#16 &&& 0xFDDF#16 = 0#16)
    pcAligned := (by decide : Config.base.extractLsb' 0 2 = 0#2)
    memory := hmem
    code := (by decide : reachableCode 0#4 = true)
    trace := rfl
    constructed := rfl }

/-- Settles O53: State.reset is an initial state with arguments in range. -/
theorem invariantHoldsAtReset : Obligations.InvariantHoldsAtReset := by
  unfold Obligations.InvariantHoldsAtReset
  exact initial_inv (by decide) (by decide) (by decide) reset_memory_wf

/-- A program decodes word by word (R251). -/
theorem decodeProgram_ok {l : List (Kind × Word)} {prog : List Instr} (h : decodeProgram l = .ok prog) :
    List.Forall₂ (fun p i => decodeAs p.1 p.2 = .ok i) l prog := by
  induction l generalizing prog with
  | nil => cases h; exact .nil
  | cons p rest ih =>
    obtain ⟨k, w⟩ := p
    simp only [decodeProgram] at h
    split at h
    · cases h
    next i hi =>
      split at h
      · cases h
      next is his => cases h; exact .cons hi (ih his)

theorem decodeProgram_isProgram {l : List (Kind × Word)} {prog : List Instr} (h : decodeProgram l = .ok prog) :
    prog.all Instr.isProgram = true := by
  have hall := decodeProgram_ok h
  clear h
  induction hall with
  | nil => rfl
  | cons hi _ ih =>
    obtain ⟨-, rfl⟩ := decodeAs_eq_ok.mp hi
    rw [List.all_cons, ih, Instr.isProgram, kind_cutFields]
    rfl

theorem construct_inv {a : ConstructArgs} {s : State} (h : construct a = .ok s) : s.Inv := by
  obtain ⟨prog, hprog, hwf, rfl⟩ := construct_ok h
  simp only [Bool.and_eq_true] at hwf
  obtain ⟨⟨hlat, hfreq⟩, hlen⟩ := hwf
  refine initial_inv hlat hfreq ?_ (ofPairs_wf _)
  rw [programWf, decodeProgram_isProgram hprog, hlen]
  rfl

/-! ### The invariant through a step -/

theorem isProgram_of_imem {prog : List Instr} (h : programWf prog = true) {a : Word} {i : Instr} (hi : imem prog a = some i) :
    i.isProgram = true := by
  obtain ⟨-, hget⟩ := imem_eq_some.mp hi
  rw [programWf, Bool.and_eq_true, List.all_eq_true] at h
  exact h.1 i (List.mem_of_getElem? hget)

/-- Settles O54: a cycle keeps the invariant by `cycleWith_inv`, a command by `exec_command_inv`, and a new PSC has it. -/
theorem everyStepKeepsTheInvariant : Obligations.EveryStepKeepsTheInvariant := by
  unfold Obligations.EveryStepKeepsTheInvariant
  intro s t hinv hstep
  obtain ⟨n, i, -, -, hfetch, hexec⟩ | ⟨n, -, -, -, rfl⟩ | ⟨-, -, rfl⟩ | ⟨-, -, rfl⟩ | ⟨-, w, later, c, -, hdec, hexec⟩ |
    ⟨-, w, later, e, -, -, rfl⟩ | ⟨-, a, later, u, -, hu, rfl⟩ := step_next hstep
  · have himem : imem s.prog s.pc = some i := by
      unfold fetchAt at hfetch
      split at hfetch
      · exact hfetch
      · cases hfetch
    rw [exec_program (isProgram_of_imem hinv.program himem)] at hexec
    cases hexec
    refine cycleWith_inv (hinv.withHost hinv.code n s.inbox s.responses) fun j _ hj => ?_
    cases hj
    exact himem
  · exact cycleWith_inv (hinv.withHost hinv.code n s.inbox s.responses) fun j _ hj => nomatch hj
  · exact hinv.withHost hinv.code 0 s.inbox s.responses
  · exact hinv
  · exact exec_command_inv (decodeCommand_ok hdec).1 (hinv.withHost hinv.code s.runLeft later s.responses) hexec
  · exact enterFaulted_inv (hinv.withHost hinv.code s.runLeft later s.responses) (by decide)
  · have hu' := construct_inv hu
    exact hu'.withHost hu'.code u.runLeft later u.responses

end Sys2Proof.Machine

namespace Sys2Proof.Machine

/-! ### CONSTRUCT (R251, R288, R290) -/

theorem decodeAs_eq_error {k : Kind} {w : Word} {e : DecodeError} (h : decodeAs k w = .error e) : e = .malformedEncoding k := by
  unfold decodeAs at h
  split at h <;> cases h
  rfl

theorem decodeProgram_eq_error_iff {l : List (Kind × Word)} :
    (∃ e, decodeProgram l = .error e) ↔ ∃ p ∈ l, decodeAs p.1 p.2 = .error (.malformedEncoding p.1) := by
  induction l with
  | nil => simp [decodeProgram]
  | cons p rest ih =>
    obtain ⟨k, w⟩ := p
    simp only [decodeProgram, List.mem_cons, exists_eq_or_imp]
    cases hp : decodeAs k w with
    | error e => simp [decodeAs_eq_error hp]
    | ok i =>
      rw [← ih]
      cases decodeProgram rest <;> simp

theorem decodeProgram_eq_ok_iff {l : List (Kind × Word)} :
    (∃ prog, decodeProgram l = .ok prog) ↔ ∀ p ∈ l, ∃ i, decodeAs p.1 p.2 = .ok i := by
  constructor
  · rintro ⟨prog, hprog⟩ p hp
    cases hd : decodeAs p.1 p.2 with
    | ok i => exact ⟨i, rfl⟩
    | error e =>
      obtain ⟨e', he'⟩ := decodeProgram_eq_error_iff.mpr ⟨p, hp, decodeAs_eq_error hd ▸ hd⟩
      rw [hprog] at he'
      cases he'
  · intro hall
    cases hprog : decodeProgram l with
    | ok prog => exact ⟨prog, rfl⟩
    | error e =>
      obtain ⟨p, hp, he⟩ := decodeProgram_eq_error_iff.mp ⟨e, hprog⟩
      obtain ⟨i, hi⟩ := hall p hp
      rw [hi] at he
      cases he

/-- The ranges of R6 and R288, as the statements give them. -/
def InRange (lat : Latencies) (freq : Frequencies) (length : Nat) : Prop :=
  (∀ n ∈ [lat.d, lat.e, lat.m, lat.w], 1 ≤ n ∧ n ≤ 255) ∧ (∀ f ∈ [freq.d, freq.e, freq.m, freq.w], f ≠ 0#32) ∧
    length ≤ 0x30000000

theorem inRange_iff {lat : Latencies} {freq : Frequencies} {length : Nat} :
    (lat.wf && freq.wf && programLengthOk length) = true ↔ InRange lat freq length := by
  have hlength : programLengthOk length = true ↔ length ≤ 0x30000000 := decide_eq_true_iff
  have hfreq : freq.wf = true ↔ ∀ f ∈ [freq.d, freq.e, freq.m, freq.w], f ≠ 0#32 := by
    simp [Frequencies.wf, and_assoc]
  have hlat : lat.wf = true ↔ ∀ n ∈ [lat.d, lat.e, lat.m, lat.w], 1 ≤ n ∧ n ≤ 255 := by
    simp [latencies_wf_iff]
  rw [Bool.and_eq_true, Bool.and_eq_true, hlength, hfreq, hlat, and_assoc]
  rfl

/-- What CONSTRUCT answers for a program that does not decode, and for one that does (R290). -/
theorem construct_of_decode_error {a : ConstructArgs} {e : DecodeError} (h : decodeProgram a.program = .error e) :
    construct a = .error .malformedEncoding := by
  rw [construct, h]

theorem construct_of_decode_ok {a : ConstructArgs} {prog : List Instr} (h : decodeProgram a.program = .ok prog) :
    (InRange a.lat a.freq a.program.length →
      construct a = .ok (State.initial a.lat a.freq prog a.rf0 (Memory.ofPairs a.mem0))) ∧
    (¬ InRange a.lat a.freq a.program.length → construct a = .error .badConfiguration) := by
  rw [(decodeProgram_ok h).length_eq, ← inRange_iff, construct, h]
  exact ⟨fun hr => if_pos hr, fun hr => if_neg hr⟩

/-- Settles O7: the words are decoded first, and only a program that decodes meets the range checks. -/
theorem constructRefusals : Obligations.ConstructRefusals := by
  unfold Obligations.ConstructRefusals
  intro a
  rw [← decodeProgram_eq_error_iff, ← decodeProgram_eq_ok_iff]
  show (_ ↔ _) ∧ (_ ↔ _ ∧ ¬ InRange a.lat a.freq a.program.length)
  cases h : decodeProgram a.program with
  | error e => simp [construct_of_decode_error h]
  | ok prog =>
    obtain ⟨hok, hbad⟩ := construct_of_decode_ok h
    by_cases hr : InRange a.lat a.freq a.program.length
    · simp [hok hr, hr]
    · simp [hbad hr, hr]

/-- What a memory given as pairs holds: the last pair of an address, or the unlisted Word (log 2, log 14). -/
theorem readAt_ofPairs (l : List (Word × Word)) (b : Word) :
    Memory.readAt (Memory.ofPairs l) b.toNat = ((l.reverse.find? fun p => p.1 == b).map fun p => p.2).getD 0#32 := by
  induction l using List.reverseRecOn with
  | nil => rfl
  | append_singleton l p ih =>
    have hwrite : Memory.ofPairs (l ++ [p]) = Memory.writeAt (Memory.ofPairs l) p.1.toNat p.2 := by
      simp [Memory.ofPairs]
    rw [hwrite, readAt_writeAt _ (ofPairs_wf l), ih, List.reverse_append, List.reverse_singleton, List.singleton_append,
      List.find?_cons]
    by_cases hb : b = p.1
    · simp [hb]
    · have hne : (p.1 == b) = false := by simp [Ne.symm hb]
      rw [if_neg fun h => hb (BitVec.toNat_inj.mp h), hne]

theorem initial_isDone (lat : Latencies) (freq : Frequencies) (prog : List Instr) (rf0 : Vector Word 32) (mem0 : Memory) :
    (State.initial lat freq prog rf0 mem0).isDone = true := by
  simp [State.isDone, State.allSlots, State.initial]

/-- Settles O8: the successful CONSTRUCT's state is R39's, with the given memory. -/
theorem constructGivesResetValues : Obligations.ConstructGivesResetValues := by
  unfold Obligations.ConstructGivesResetValues
  intro a hdec hlat hfreq hlen
  obtain ⟨prog, hprog⟩ := decodeProgram_eq_ok_iff.mpr hdec
  refine ⟨_, (construct_of_decode_ok hprog).1 ⟨hlat, hfreq, hlen⟩, rfl, rfl, rfl, rfl, rfl, rfl, rfl, ?_, rfl, rfl, rfl, rfl, rfl,
    rfl, rfl, rfl, rfl, readAt_ofPairs a.mem0, ?_⟩
  · exact countOf_replicate
  · rw [State.statusWord, initial_isDone]
    exact (by decide : (0#24 ++ 0#4 ++ 0#1 ++ BitVec.ofBool false ++ BitVec.ofBool false ++ BitVec.ofBool true : Word) = 1#32)

/-! ### Where the program stands (R60, R61) -/

/-- The address of the n-th instruction. -/
def placeOf (n : Nat) : Word := 0x40000000#32 + BitVec.ofNat 32 (4 * n)

theorem placeOf_sub_base (n : Nat) : placeOf n - Config.base = BitVec.ofNat 32 (4 * n) := by
  rw [placeOf, Config.base, BitVec.add_comm, BitVec.add_sub_cancel]

theorem aligned_iff_toNat {a : Word} : a.extractLsb' 0 2 = 0#2 ↔ a.toNat % 4 = 0 := by
  rw [← BitVec.toNat_inj]
  simp [BitVec.extractLsb'_toNat]

theorem imem_placeOf {prog : List Instr} {n : Nat} (hn : n < 0x40000000) : imem prog (placeOf n) = prog[n]? := by
  have htoNat : (BitVec.ofNat 32 (4 * n)).toNat = 4 * n := by
    rw [BitVec.toNat_ofNat]
    omega
  unfold imem
  simp only [placeOf_sub_base, aligned_iff_toNat, htoNat]
  rw [if_pos (by omega), Nat.mul_div_cancel_left n (by decide)]

theorem placeOf_of_imem {prog : List Instr} {b : Word} {i : Instr} (h : imem prog b = some i) :
    ∃ n, n < prog.length ∧ b = placeOf n := by
  obtain ⟨halign, hget⟩ := imem_eq_some.mp h
  refine ⟨_, (List.getElem?_eq_some_iff.mp hget).1, ?_⟩
  have hmul : 4 * ((b - Config.base).toNat / 4) = (b - Config.base).toNat := by
    have := aligned_iff_toNat.mp halign
    omega
  rw [placeOf, hmul, BitVec.ofNat_toNat, BitVec.setWidth_eq]
  show b = Config.base + (b - Config.base)
  rw [BitVec.add_comm, BitVec.sub_add_cancel]

/-- Settles O9: the program is the decoded words in their order, and `imem` looks it up at BASE + 4*n. -/
theorem constructPlacesDecodedProgram : Obligations.ConstructPlacesDecodedProgram := by
  unfold Obligations.ConstructPlacesDecodedProgram
  intro a s h
  obtain ⟨prog, hprog, hwf, rfl⟩ := construct_ok h
  have hall := decodeProgram_ok hprog
  obtain ⟨-, -, hlen⟩ := inRange_iff.mp hwf
  refine ⟨fun n k w hn => ?_, fun b hb => ?_⟩
  · have hlt : n < a.program.length := (List.getElem?_eq_some_iff.mp hn).1
    have hlt' : n < prog.length := hall.length_eq ▸ hlt
    have hget : a.program[n] = (k, w) := (List.getElem?_eq_some_iff.mp hn).2
    have hi := List.forall₂_iff_get.mp hall |>.2 n hlt hlt'
    simp only [List.get_eq_getElem, hget] at hi
    refine ⟨prog[n], hi, ?_⟩
    show imem prog (placeOf n) = _
    rw [imem_placeOf (by omega), List.getElem?_eq_getElem hlt']
  · cases hi : imem (State.initial a.lat a.freq prog a.rf0 (Memory.ofPairs a.mem0)).prog b with
    | none => rfl
    | some i =>
      obtain ⟨n, hn, rfl⟩ := placeOf_of_imem hi
      exact absurd ⟨n, hall.length_eq ▸ hn, rfl⟩ hb

/-- Settles O10: State.reset, field by field. -/
theorem resetLeavesSpecValues : Obligations.ResetLeavesSpecValues := by
  unfold Obligations.ResetLeavesSpecValues
  exact ⟨rfl, rfl, rfl, rfl, rfl, rfl, rfl, rfl, rfl, rfl, countOf_replicate, rfl⟩

/-! ### The step (R171, R250, R253, R300) -/

section
variable {s : State}

theorem step_of_due {n : Nat} (hr : s.runLeft = n + 1) (hf : s.fault = 0#4) : step s = runStep { s with runLeft := n } := by
  simp [step, hr, hf]

theorem step_of_not_due (hr : s.runLeft = 0) : step s = hostStep s := by
  simp [step, hr]

theorem step_of_faulted (hr : s.runLeft ≠ 0) (hf : s.fault ≠ 0#4) : step s = .next { s with runLeft := 0 } := by
  obtain ⟨n, hn⟩ := Nat.exists_eq_succ_of_ne_zero hr
  simp [step, hn, hf, stopRun]

theorem fetchAt_of_empty (hq : s.queue = []) : fetchAt s = imem s.prog s.pc := by
  simp [fetchAt, hq]

theorem fetchAt_of_held (hq : s.queue ≠ []) : fetchAt s = none := by
  simp [fetchAt, hq]

theorem hostStep_of_command {w : Word} {later : List HostInput} (hi : s.inbox = .command w :: later) :
    (∀ c, decodeCommand w = .ok c → hostStep s = exec c { s with inbox := later }) ∧
    (∀ e, decodeCommand w = .error e → hostStep s = .next (reservedCommand { s with inbox := later })) := by
  unfold hostStep
  rw [hi]
  exact ⟨fun c hc => by simp only [hc], fun e he => by simp only [he]⟩

end

/-- Settles O11: step 1 finds `imem(pc)` when the queue is empty, and a command word is decoded. -/
theorem stepRunsDecodedInstruction : Obligations.StepRunsDecodedInstruction := by
  unfold Obligations.StepRunsDecodedInstruction
  refine ⟨fun s n i hr hf hq hi => ?_, fun s w later c hr hin hc => ?_⟩
  · have hfetch : fetchAt { s with runLeft := n } = some i := by
      rw [fetchAt_of_empty (s := { s with runLeft := n }) hq]
      exact hi
    rw [step_of_due hr hf, runStep, hfetch]
  · rw [step_of_not_due hr]
    exact (hostStep_of_command hin).1 c hc

/-- Settles O12: nothing is fetched behind a queued stall or where no instruction stands; a FAULTED PSC ends its RUN; and a step
without input does nothing. -/
theorem stepWithoutFetchOrInput : Obligations.StepWithoutFetchOrInput := by
  unfold Obligations.StepWithoutFetchOrInput
  refine ⟨fun s n hr hf hno => ?_, fun s => step_of_faulted, fun s hr hin => ?_⟩
  · have hfetch : fetchAt { s with runLeft := n } = none := by
      by_cases hq : s.queue = []
      · rw [fetchAt_of_empty (s := { s with runLeft := n }) hq]
        exact hno.resolve_left (not_not_intro hq)
      · exact fetchAt_of_held (s := { s with runLeft := n }) hq
    rw [step_of_due hr hf, runStep, hfetch]
  · rw [step_of_not_due hr, hostStep, hin]

/-- Settles O13: such a word is reserved, and IllegalCommand is raised when there is no fault yet. -/
theorem reservedWordRaisesIllegalCommand : Obligations.ReservedWordRaisesIllegalCommand := by
  unfold Obligations.ReservedWordRaisesIllegalCommand
  intro s w later hr hin hrows
  obtain ⟨e, he⟩ := decodeCommand_error_iff.mpr ⟨hrows .nop rfl, hrows (.run 0) rfl, hrows (.setupFwd .decode .decode) rfl,
    hrows .flushAll rfl, hrows (.read 0) rfl⟩
  rw [step_of_not_due hr, (hostStep_of_command hin).2 e he]
  refine ⟨fun hf => ?_, fun hf => ?_⟩
  · exact congrArg _ (enterFaulted_of_fault_eq_zero (s := { s with inbox := later }) .illegalCommand hf)
  · rw [reservedCommand, enterFaulted, if_neg hf]

/-- Settles O15: the step is `takeConstruct`, and a constructed PSC reports 0. -/
theorem stepTakesConstruct : Obligations.StepTakesConstruct := by
  unfold Obligations.StepTakesConstruct
  refine ⟨fun s a later hr hin => ⟨fun u hu => ⟨?_, (construct_inv hu).constructed⟩, fun f hf => ?_⟩, rfl, rfl⟩
  · simp only [step_of_not_due hr, hostStep, hin, takeConstruct, hu]
  · simp only [step_of_not_due hr, hostStep, hin, takeConstruct, hf]

/-! ### RUN (R250, R253) -/

/-- The state with `n` cycles due. -/
def State.due (s : State) (n : Nat) : State := { s with runLeft := n }

theorem cycle_due (s : State) (n : Nat) : cycle (s.due n) = (cycle s).due n := by
  have h := cycleWith_aside (imem s.prog s.pc) s s.freq n
  have hfreq : (cycleWith (imem s.prog s.pc) s).freq = s.freq := (cycleWith_sameConfig _ s).2.1
  unfold State.aside at h
  unfold cycle State.due
  rw [h, hfreq.symm]

/-- With a program of kinds, the step of a RUN is a cycle: behind a queued stall a cycle does not look at what is found. -/
theorem runStep_eq_cycle {s : State} (hprog : programWf s.prog = true) : runStep s = .next (cycle s) := by
  unfold runStep
  by_cases hq : s.queue = []
  · rw [fetchAt_of_empty hq, cycle]
    cases hi : imem s.prog s.pc with
    | none => rfl
    | some i => exact exec_program (isProgram_of_imem hprog hi) s
  · have hfetch : fetchStep (imem s.prog s.pc) s = fetchStep none s := by simp [fetchStep, hq]
    rw [fetchAt_of_held hq, cycle]
    simp only [cycleWith, cycleTry, hfetch]

/-- A step with a cycle due and no fault runs that cycle (R253). -/
theorem step_due {s : State} {n : Nat} (hprog : programWf s.prog = true) (hf : s.fault = 0#4) :
    step (s.due (n + 1)) = .next ((cycle s).due n) := by
  rw [step_of_due (s := s.due (n + 1)) rfl hf]
  show runStep (s.due n) = _
  rw [runStep_eq_cycle (s := s.due n) hprog, cycle_due]

theorem run_succ (s : State) (m : Nat) {t : State} (h : step s = .next t) :
    Host.Core.run Sys2Proof.core (m + 1) s = Host.Core.run Sys2Proof.core m t := by
  have hcore : Sys2Proof.core.step s = .next t := h
  simp only [Host.Core.run, hcore]

theorem cycle_program (s : State) : (cycle s).prog = s.prog := (cycleWith_sameConfig _ s).2.2.1

theorem run_due_safe {m : Nat} : ∀ {n : Nat} {s : State}, programWf s.prog = true → m ≤ n → s.SafeFor m →
    Host.Core.run Sys2Proof.core m (s.due n) = .next ((cycles m s).due (n - m)) := by
  induction m with
  | zero => exact fun _ _ _ => rfl
  | succ m ih =>
    intro n s hprog hmn hsafe
    obtain ⟨n, rfl⟩ := Nat.exists_eq_add_of_le' (Nat.le_trans (Nat.succ_pos m) hmn)
    rw [run_succ _ _ (step_due hprog (safe_of_cycles (n := m + 1) hsafe)),
      ih (by rwa [cycle_program]) (by omega) hsafe, Nat.add_sub_add_right]
    rfl

theorem run_due_completes : ∀ {n : Nat} {s : State}, programWf s.prog = true →
    ∃ m, m ≤ n ∧ Host.Core.run Sys2Proof.core m (s.due n) = .next ((cycles n s).due 0) := by
  intro n
  induction n with
  | zero => exact fun _ => ⟨0, Nat.le_refl 0, rfl⟩
  | succ n ih =>
    intro s hprog
    by_cases hf : s.fault = 0#4
    · obtain ⟨m, hm, hrun⟩ := ih (s := cycle s) (by rwa [cycle_program])
      exact ⟨m + 1, Nat.succ_le_succ hm, (run_succ _ _ (step_due hprog hf)).trans hrun⟩
    · refine ⟨1, Nat.le_add_left 1 n, ?_⟩
      rw [run_succ (s.due (n + 1)) 0 (step_of_faulted (s := s.due (n + 1)) (Nat.succ_ne_zero n) hf), cycles_of_faulted hf]
      rfl

/-- Settles O17: by induction on the cycles due, each of which is one step; a fault ends the RUN in one more. -/
theorem runPerformsItsCycles : Obligations.RunPerformsItsCycles := by
  unfold Obligations.RunPerformsItsCycles
  intro n s hf
  refine ⟨?_, fun hprog => ⟨fun m hm hsafe => run_due_safe hprog hm hsafe, run_due_completes hprog⟩⟩
  rw [exec, execRun, if_pos hf]

/-! ### FLUSH_ALL, READ and the FAULTED state (R254, R256, R262) -/

/-- Settles O19: the flushed state holds no record. -/
theorem flushAllClearsThePipeline : Obligations.FlushAllClearsThePipeline := by
  unfold Obligations.FlushAllClearsThePipeline
  intro s hf
  refine ⟨s.flushed, execFlushAll_eq hf, ?_, rfl⟩
  rw [State.isDone, List.all_eq_true]
  exact fun e he => Option.isNone_iff_eq_none.mpr (mem_allSlots_of_flushed he)

theorem exec_read (index : BitVec 8) (s : State) :
    exec (.read index) s = .next { s with responses := s.responses ++ [s.statusAt index] } := rfl

/-- A FAULTED PSC does nothing, whatever it is given, but answer a READ (R262). -/
theorem exec_of_faulted {i : Instr} {s : State} (hf : s.fault ≠ 0#4) (hi : ∀ index, i ≠ .read index) :
    exec i s = .next s := by
  cases i with
  | nop => rfl
  | run n => rw [exec, execRun, if_neg hf]
  | setupFwd source target => simp [exec, execSetupFwd, hf]
  | flushAll => rw [exec, execFlushAll, if_neg hf]
  | read index => exact absurd rfl (hi index)
  | add | sub | andi | lw | sw | j => rw [exec_program rfl, cycleWith, if_neg hf]

/-- Settles O23: `exec_of_faulted`, and READ's answer. -/
theorem faultedPscOnlyAnswersReads : Obligations.FaultedPscOnlyAnswersReads := by
  unfold Obligations.FaultedPscOnlyAnswersReads
  intro i s hf
  refine ⟨exec_of_faulted hf, ?_⟩
  rintro index rfl
  exact exec_read index s

/-- Settles O24: a step of a FAULTED PSC ends its RUN, answers a READ, takes a command that does nothing, or has none to take. -/
theorem faultIsSticky : Obligations.FaultIsSticky := by
  unfold Obligations.FaultIsSticky
  intro s t hf hno hstep
  obtain ⟨n, i, -, hzero, -⟩ | ⟨n, -, hzero, -⟩ | ⟨-, -, rfl⟩ | ⟨-, -, rfl⟩ | ⟨-, w, later, c, -, -, hexec⟩ |
    ⟨-, w, later, e, -, -, rfl⟩ | ⟨hr, a, later, u, hin, -, -⟩ := step_next hstep
  · exact absurd hzero hf
  · exact absurd hzero hf
  · rfl
  · rfl
  · by_cases hread : ∃ index, c = .read index
    · obtain ⟨index, rfl⟩ := hread
      cases hexec
      rfl
    · rw [exec_of_faulted (s := { s with inbox := later }) hf fun index hc => hread ⟨index, hc⟩] at hexec
      cases hexec
      rfl
  · rw [reservedCommand, enterFaulted, if_neg hf]
  · exact absurd hin (hno hr a later)

end Sys2Proof.Machine

namespace Sys2Proof.Machine

/-! ### The status registers and the stall ratio (R36, R256, R259) -/

/-- The STATUS word, bit by bit (R36). -/
theorem statusWord_bits (s : State) :
    (s.statusWord.getLsbD 0 = true ↔ ∀ e ∈ s.allSlots, e = none) ∧ s.statusWord.getLsbD 1 = s.started ∧
      (s.statusWord.getLsbD 2 = true ↔ s.fault ≠ 0#4) ∧ s.statusWord.getLsbD 3 = false ∧
      s.statusWord.extractLsb' 4 4 = s.fault ∧ s.statusWord.extractLsb' 8 24 = 0#24 := by
  have hdone : s.statusWord.getLsbD 0 = s.isDone := by simp only [State.statusWord, BitVec.getLsbD_append]; simp
  have hfaulted : s.statusWord.getLsbD 2 = s.isFaulted := by simp only [State.statusWord, BitVec.getLsbD_append]; simp
  refine ⟨?_, ?_, ?_, ?_, ?_, ?_⟩
  · rw [hdone, State.isDone, List.all_eq_true]
    exact forall₂_congr fun e _ => Option.isNone_iff_eq_none
  · simp only [State.statusWord, BitVec.getLsbD_append]; simp
  · rw [hfaulted, State.isFaulted, bne_iff_ne]
  · simp only [State.statusWord, BitVec.getLsbD_append]; simp
  · rw [State.statusWord]
    repeat rw [BitVec.extractLsb'_append_eq_of_le (by decide)]
    exact BitVec.extractLsb'_append_eq_right
  · rw [State.statusWord]
    repeat rw [BitVec.extractLsb'_append_eq_of_le (by decide)]
    rfl

/-- LAT_CFG, byte by byte (R36). -/
theorem latWord_bytes (l : Latencies) :
    (latWord l).extractLsb' 0 8 = BitVec.ofNat 8 l.d ∧ (latWord l).extractLsb' 8 8 = BitVec.ofNat 8 l.e ∧
      (latWord l).extractLsb' 16 8 = BitVec.ofNat 8 l.m ∧ (latWord l).extractLsb' 24 8 = BitVec.ofNat 8 l.w := by
  unfold latWord
  refine ⟨?_, ?_, ?_, ?_⟩ <;> simp only [BitVec.extractLsb'_append_eq_ite] <;> simp

/-- Past the fixed registers, an index names a busy count or is reserved (R36). -/
theorem statusAt_of_ge (s : State) {index : BitVec 8} (h : 0x0D ≤ index.toNat) : s.statusAt index =
    if 0x20 ≤ index.toNat ∧ index.toNat < 0x40 then BitVec.ofNat 32 (s.busyOf (BitVec.ofNat 5 (index.toNat - 0x20)))
    else 0#32 := by
  unfold State.statusAt
  split
  case h_14 => rfl
  all_goals omega

theorem zero_append_eq_zeroExtend (v : BitVec 16) : 0#16 ++ v = v.zeroExtend 32 := by
  have hlt : v.toNat < 2 ^ 32 := Nat.lt_trans v.isLt (by decide)
  have happend : (0#16 ++ v : Word).toNat = v.toNat := by rw [BitVec.toNat_append]; simp
  exact BitVec.eq_of_toNat_eq (by rw [happend, BitVec.toNat_setWidth, Nat.mod_eq_of_lt hlt])

/-- Settles O20: the status map, index by index; the response is the register's Word. -/
theorem readAnswersTheStatusRegister : Obligations.ReadAnswersTheStatusRegister := by
  unfold Obligations.ReadAnswersTheStatusRegister
  intro s index
  refine ⟨s.statusAt index, exec_read index s, ?_, ?_, ?_, ?_, ?_, ?_, ?_, ?_, ?_, ?_, ?_, ?_, ?_, ?_, ?_⟩
  case refine_1 => rintro rfl; exact statusWord_bits s
  case refine_9 => rintro rfl; exact zero_append_eq_zeroExtend s.fwdCfg
  case refine_10 => rintro rfl; exact latWord_bytes s.lat
  case refine_14 =>
    intro r hr
    have hlt := r.isLt
    have hr' : BitVec.ofNat 5 (index.toNat - 0x20) = r := by rw [hr, Nat.add_sub_cancel_left]; simp
    rw [statusAt_of_ge s (by omega), if_pos (by omega), hr']
  case refine_15 =>
    intro h
    have hlt := index.isLt
    rw [statusAt_of_ge s (by omega), if_neg (by omega)]
  all_goals rintro rfl; rfl

/-- Settles O22: a quotient of a part by the whole, as rationals. -/
theorem stallRatioIsExact : Obligations.StallRatioIsExact := by
  unfold Obligations.StallRatioIsExact
  intro s
  unfold State.stallRatio
  by_cases hzero : s.committed.toNat + s.stalls.toNat = 0
  · have hstalls : s.stalls.toNat = 0 := by omega
    simp [hstalls]
  · have hpos : (0 : Rat) < ((s.committed.toNat + s.stalls.toNat : Nat) : Rat) := by
      exact_mod_cast Nat.pos_of_ne_zero hzero
    rw [if_neg hzero]
    refine ⟨fun h => absurd h hzero, div_mul_cancel₀ _ hpos.ne', div_nonneg (Nat.cast_nonneg _) hpos.le, ?_⟩
    rw [div_le_one hpos]
    exact_mod_cast Nat.le_add_left _ _

/-! ### From construction (R313) -/

theorem exitOf_slotW {s : State} (h : s.Sized) : exitOf s.slotW = s.recordAt (s.lat.total - 1) := by
  obtain ⟨-, -, -, hw⟩ := h.positive
  have hpos : s.lat.total - 1 = s.lat.d + s.lat.e + s.lat.m + (s.lat.w - 1) := by unfold Latencies.total; omega
  rw [hpos, recordAt_writeback h, exitOf, List.getLast?_eq_getElem?, h.writeback]

/-- A record stands no further after a cycle than one position past where a record stood. -/
theorem completed_recordAt_none (found : Option Instr) {s : State} (h : s.Sized) {q : Nat} (hq : s.recordAt q = none) :
    (s.completed found).recordAt (q + 1) = none := by
  by_cases hlt : q + 1 < s.lat.total
  · obtain hd | ⟨n, hn, rfl⟩ | ⟨n, hn, rfl⟩ | ⟨n, hn, rfl⟩ := position_cases s.lat (q := q) (by omega)
    · rw [recordAt_decode h hd] at hq
      simp [completed_recordAt_decode found h hd, hq]
    · rw [recordAt_execute h hn] at hq
      simp [completed_recordAt_execute found h hn, hq]
    · rw [recordAt_memory h hn] at hq
      rw [completed_recordAt_memory found h hn, hq]
      rfl
    · rw [recordAt_writeback h] at hq
      rw [completed_recordAt_writeback found h (by unfold Latencies.total at hlt; omega), hq]
  · exact recordAt_eq_none (by rw [completed_allSlots_length found h.chained, h.allSlots_length]; omega)

/-- Nothing has reached position `n`, as after `n` cycles from construction, and every one of them was a stall. -/
structure State.Fresh (n : Nat) (s : State) : Prop where
  sized : s.Sized
  ahead : ∀ q, n ≤ q → s.recordAt q = none
  committed : s.committed = 0#64
  stalls : s.stalls = BitVec.ofNat 64 n
  trace : s.trace = []

theorem State.Fresh.completed {n : Nat} {s : State} (h : s.Fresh n) (hn : n < s.lat.total) (found : Option Instr) :
    (s.completed found).Fresh (n + 1) := by
  have hexit : exitOf s.slotW = none := by rw [exitOf_slotW h.sized]; exact h.ahead _ (by omega)
  refine ⟨completed_sized found h.sized, fun q hq => ?_, ?_, ?_, ?_⟩
  · obtain ⟨q, rfl⟩ := Nat.exists_eq_add_of_le' (Nat.le_trans (Nat.le_add_left 1 n) hq)
    exact completed_recordAt_none found h.sized (h.ahead q (by omega))
  · simp [State.completed, hexit, h.committed]
  · simp [State.completed, hexit, h.stalls, BitVec.ofNat_add]
  · simp [State.completed, hexit, h.trace]

theorem State.Fresh.cycles {n : Nat} : ∀ {k : Nat} {s : State}, s.Fresh k → k + n ≤ s.lat.total → s.SafeFor n →
    (cycles n s).Fresh (k + n) := by
  induction n with
  | zero => exact fun h _ _ => h
  | succ n ih =>
    intro k s h hn hsafe
    have hnext : (cycle s).fault = 0#4 := safe_of_cycles (n := n) hsafe
    have heq : cycle s = s.completed (imem s.prog s.pc) := (cycleWith_eq_completed hnext).1
    have hfresh : (cycle s).Fresh (k + 1) := heq ▸ h.completed (by omega) _
    have hlat : (cycle s).lat.total = s.lat.total := by rw [heq]; rfl
    rw [show k + (n + 1) = k + 1 + n by omega]
    exact ih hfresh (by omega) hsafe

theorem construct_fresh {a : ConstructArgs} {s : State} (h : construct a = .ok s) : s.Fresh 0 := by
  have hsized := (construct_inv h).sized
  obtain ⟨prog, -, -, rfl⟩ := construct_ok h
  exact ⟨hsized, fun q _ => isDone_iff.mp (initial_isDone _ _ _ _ _) q, rfl, rfl, rfl⟩

/-- Settles O47: a record needs P cycles to reach the exit of writeback. -/
theorem firstCyclesCommitNothing : Obligations.FirstCyclesCommitNothing := by
  unfold Obligations.FirstCyclesCommitNothing
  intro a s n ha hn hsafe
  obtain ⟨-, -, hcommitted, hstalls, htrace⟩ := (construct_fresh ha).cycles (by omega) hsafe
  exact ⟨hcommitted, by rw [hstalls, Nat.zero_add], htrace⟩

end Sys2Proof.Machine

namespace Sys2Proof.Machine

/-! ### One record in the pipeline -/

/-- The chain of `n` slots from position `off` on, when the one record in the pipeline, `I`, stands at position `q`. -/
def chainAt (q : Nat) (I : InFlight) : Nat → Nat → List (Option InFlight)
  | _, 0 => []
  | off, n + 1 => (if off = q then some I else none) :: chainAt q I (off + 1) n

section
variable {q : Nat} {I : InFlight}

@[simp] theorem chainAt_length (off n : Nat) : (chainAt q I off n).length = n := by
  induction n generalizing off with
  | zero => rfl
  | succ n ih => simp [chainAt, ih]

theorem chainAt_get (off n k : Nat) :
    (chainAt q I off n)[k]? = if k < n then some (if off + k = q then some I else none) else none := by
  induction n generalizing off k with
  | zero => simp [chainAt]
  | succ n ih =>
    cases k with
    | zero => simp [chainAt]
    | succ k => simp [chainAt, ih, Nat.add_assoc, Nat.add_comm 1 k]

/-- A chain in which `q` does not lie is empty. -/
theorem chainAt_of_outside {off n : Nat} (h : q < off ∨ off + n ≤ q) : chainAt q I off n = List.replicate n none := by
  refine List.ext_getElem? fun k => ?_
  rw [chainAt_get, List.getElem?_replicate]
  by_cases hk : k < n
  · rw [if_pos hk, if_pos hk, if_neg (by omega)]
  · rw [if_neg hk, if_neg hk]

/-- What the record is matters only to the chain in which it stands. -/
theorem chainAt_congr {I' : InFlight} {off n : Nat} (h : off ≤ q → q < off + n → I = I') :
    chainAt q I off n = chainAt q I' off n := by
  by_cases hin : off ≤ q ∧ q < off + n
  · rw [h hin.1 hin.2]
  · rw [chainAt_of_outside (by omega), chainAt_of_outside (by omega)]

theorem exitOf_chainAt {off n : Nat} (hn : 1 ≤ n) : exitOf (chainAt q I off n) = if q + 1 = off + n then some I else none := by
  rw [exitOf, List.getLast?_eq_getElem?, chainAt_length, chainAt_get, if_pos (by omega), Option.join_some]
  exact if_congr (by omega) rfl rfl

/-- A chain shifts by one as what falls out of the chain before it comes in. -/
theorem chainAt_shift {off n : Nat} (hn : 1 ≤ n) :
    (if q + 1 = off then some I else none) :: (chainAt q I off n).dropLast = chainAt (q + 1) I off n := by
  refine List.ext_getElem? fun k => ?_
  rw [chainAt_get]
  cases k with
  | zero =>
    rw [List.getElem?_cons_zero, if_pos (show 0 < n by omega)]
    exact congrArg some (if_congr (by omega) rfl rfl)
  | succ k =>
    rw [List.getElem?_cons_succ, List.getElem?_dropLast, chainAt_length, chainAt_get]
    by_cases hk : k + 1 < n
    · rw [if_pos (by omega), if_pos (by omega), if_pos hk]
      exact congrArg some (if_congr (by omega) rfl rfl)
    · rw [if_neg (by omega), if_neg hk]

theorem redirectTarget_replicate (n : Nat) : redirectTarget (List.replicate n none) = none := by
  induction n with
  | zero => rfl
  | succ n ih => simp [List.replicate_succ, redirectTarget, ih]

theorem stored_replicate (n : Nat) (m : Memory) : stored (List.replicate n none) m = m := by
  induction n with
  | zero => rfl
  | succ n ih => exact ih

theorem writtenBack_replicate (n : Nat) (regs : Vector Word 32) : writtenBack (List.replicate n none) regs = regs := by
  induction n with
  | zero => rfl
  | succ n ih => exact ih

/-- The chain behind its record's slot is empty, so what a chain does is what its one record does. -/
theorem chainAt_succ (off n : Nat) : chainAt q I off (n + 1) =
    if off = q then some I :: List.replicate n none else none :: chainAt q I (off + 1) n := by
  rw [chainAt]
  split
  next h => rw [chainAt_of_outside (by omega)]
  · rfl

theorem redirectTarget_chainAt (off n : Nat) :
    redirectTarget (chainAt q I off n) = if off ≤ q ∧ q < off + n then targetOf I else none := by
  induction n generalizing off with
  | zero => rw [if_neg (by omega)]; rfl
  | succ n ih =>
    rw [chainAt_succ]
    split
    next h => rw [if_pos (by omega), redirectTarget, redirectTarget_replicate]; rfl
    next h =>
      rw [redirectTarget, ih, Option.bind_none, Option.or_none]
      exact if_congr (by omega) rfl rfl

theorem executed_none_cons (regs : Vector Word 32) (l : List (Option InFlight)) :
    executed regs (none :: l) = none :: executed regs l := by
  rw [executed, Option.map_none, ite_self]

theorem executed_replicate (regs : Vector Word 32) (n : Nat) :
    executed regs (List.replicate n none) = List.replicate n none := by
  induction n with
  | zero => rfl
  | succ n ih => rw [List.replicate_succ, executed_none_cons, ih]

theorem executed_chainAt (regs : Vector Word 32) (off n : Nat) :
    executed regs (chainAt q I off n) = chainAt q (computed regs I) off n := by
  induction n generalizing off with
  | zero => rfl
  | succ n ih =>
    rw [chainAt_succ, chainAt_succ]
    split
    · rw [executed, redirectTarget_replicate, executed_replicate]; rfl
    · rw [executed_none_cons, ih]

theorem writesIn_killedIn_chainAt (off n : Nat) (r : RegId) : writesIn (killedIn (chainAt q I off n)) r = 0 := by
  have hnone : ∀ l : List (Option InFlight), killedIn (none :: l) = none :: killedIn l := fun l => by
    rw [killedIn, ite_self]
  have hempty : ∀ n, killedIn (List.replicate n none) = List.replicate n none := fun n => by
    induction n with
    | zero => rfl
    | succ n ih => rw [List.replicate_succ, hnone, ih]
  have hwrites : ∀ n, writesIn (List.replicate n none) r = 0 := fun n => by
    induction n with
    | zero => rfl
    | succ n ih => exact ih
  induction n generalizing off with
  | zero => rfl
  | succ n ih =>
    rw [chainAt_succ]
    split
    · rw [killedIn, redirectTarget_replicate, hempty]; exact hwrites n
    · rw [hnone]; exact ih (off + 1)

theorem loaded_replicate (n : Nat) (m : Memory) : loaded (List.replicate n none) m = List.replicate n none := by
  induction n with
  | zero => rfl
  | succ n ih => rw [List.replicate_succ, loaded, ih]; rfl

theorem loaded_chainAt (off n : Nat) (m : Memory) :
    loaded (chainAt q I off n) m = chainAt q (loadFrom m I) off n := by
  induction n generalizing off with
  | zero => rfl
  | succ n ih =>
    rw [chainAt_succ, chainAt_succ]
    split
    · rw [loaded, stored_replicate, loaded_replicate]; rfl
    · rw [loaded, ih]; rfl

theorem stored_chainAt (off n : Nat) (m : Memory) :
    stored (chainAt q I off n) m = if off ≤ q ∧ q < off + n then storeOf I m else m := by
  induction n generalizing off with
  | zero => rw [if_neg (by omega)]; rfl
  | succ n ih =>
    rw [chainAt_succ]
    split
    next h => rw [if_pos (by omega), stored, stored_replicate]
    next h => rw [stored, ih]; exact if_congr (by omega) rfl rfl

theorem writtenBack_chainAt (off n : Nat) (regs : Vector Word 32) :
    writtenBack (chainAt q I off n) regs =
      if off ≤ q ∧ q < off + n then regsWith (dsts I.instr) I.res regs else regs := by
  induction n generalizing off with
  | zero => rw [if_neg (by omega)]; rfl
  | succ n ih =>
    rw [chainAt_succ]
    split
    next h => rw [if_pos (by omega), writtenBack, writtenBack_replicate]
    next h => rw [writtenBack, ih]; exact if_congr (by omega) rfl rfl

theorem anyMisaligned_chainAt (off n : Nat) :
    anyMisaligned (chainAt q I off n) = true ↔ (off ≤ q ∧ q < off + n) ∧ misaligned I = true := by
  rw [anyMisaligned_iff]
  constructor
  · rintro ⟨K, hK, hm⟩
    obtain ⟨k, hk⟩ := List.getElem?_of_mem hK
    rw [chainAt_get] at hk
    split at hk
    · split at hk
      · cases hk
        exact ⟨by omega, hm⟩
      · cases hk
    · cases hk
  · rintro ⟨hin, hm⟩
    refine ⟨I, List.mem_of_getElem? (i := q - off) ?_, hm⟩
    rw [chainAt_get, if_pos (by omega), if_pos (by omega)]

end

/-- `s` with every slot empty but position `q`, which holds `I`; past the exit, every slot is empty. -/
def State.carrying (s : State) (q : Nat) (I : InFlight) : State :=
  { s with
    slotD := chainAt q I 0 s.lat.d
    slotE := chainAt q I s.lat.d s.lat.e
    slotM := chainAt q I (s.lat.d + s.lat.e) s.lat.m
    slotW := chainAt q I (s.lat.d + s.lat.e + s.lat.m) s.lat.w }

/-- Position `q` lies in a stage (R11). -/
def inStage (l : Latencies) (st : Stage) (q : Nat) : Bool :=
  decide (l.offset st ≤ q) && decide (q < l.offset st + l.size st)

/-- The record a cycle makes of the one at position `q`. -/
def State.recordAfter (u : State) (q : Nat) (I : InFlight) : InFlight :=
  if inStage u.lat .execute q then computed u.regs I else if inStage u.lat .memory q then loadFrom u.dmem I else I

/-- The commit record of `I`, given the register file that its value is read from (R180). -/
def traceOf (regs : Vector Word 32) (I : InFlight) : CommitRecord := traceRecord { State.reset with regs := regs } I

theorem traceRecord_eq (s : State) : traceRecord s = traceOf s.regs := rfl

/-- What a cycle in which nothing is fetched does beside the move of the record at position `q`. -/
def State.after (u : State) (q : Nat) (I : InFlight) : State :=
  let regs := if inStage u.lat .writeback q then regsWith (dsts I.instr) I.res u.regs else u.regs
  let out := if q + 1 = u.lat.total then some I else none
  { u with
    regs := regs
    dmem := if inStage u.lat .memory q then storeOf I u.dmem else u.dmem
    pc := if inStage u.lat .execute q then (targetOf I).getD u.pc else u.pc
    busy := adjusted u.busy (slotWrites out) fun _ => 0
    committed := if out.isSome then u.committed + 1#64 else u.committed
    stalls := if out.isSome then u.stalls else u.stalls + 1#64
    trace := u.trace ++ (out.map (traceOf regs)).toList
    started := true }

section
variable {u : State} {q : Nat} {I : InFlight}

theorem inStage_iff {l : Latencies} {st : Stage} {q : Nat} :
    inStage l st q = true ↔ l.offset st ≤ q ∧ q < l.offset st + l.size st := by
  simp [inStage]

theorem inStage_execute {l : Latencies} : inStage l .execute q = true ↔ l.d ≤ q ∧ q < l.d + l.e := inStage_iff
theorem inStage_memory {l : Latencies} : inStage l .memory q = true ↔ l.d + l.e ≤ q ∧ q < l.d + l.e + l.m := inStage_iff
theorem inStage_writeback {l : Latencies} :
    inStage l .writeback q = true ↔ l.d + l.e + l.m ≤ q ∧ q < l.d + l.e + l.m + l.w := inStage_iff

theorem carrying_redirects (h : (u.carrying q I).redirects = true) : inStage u.lat .execute q = true := by
  rw [State.redirects, State.carrying, redirectTarget_chainAt] at h
  split at h
  next hin => exact inStage_iff.mpr hin
  · cases h

/-- A redirection comes from execute, and decode is empty then. -/
theorem carrying_ranD : (u.carrying q I).ranD = chainAt q I 0 u.lat.d := by
  rw [State.ranD]
  split
  next h =>
    obtain ⟨hlo, -⟩ := inStage_iff.mp (carrying_redirects h)
    have hempty : chainAt q I 0 u.lat.d = List.replicate u.lat.d none := chainAt_of_outside (.inr (by rw [Nat.zero_add]; exact hlo))
    show (chainAt q I 0 u.lat.d).map _ = _
    rw [hempty, List.map_replicate]
  · rfl

theorem carrying_regsBack : (u.carrying q I).regsBack = (u.after q I).regs := by
  show writtenBack (chainAt q I _ _) u.regs = _
  rw [writtenBack_chainAt]
  exact if_congr inStage_writeback.symm rfl rfl

/-- Execute reads the registers before writeback writes them: the one record is not in both stages. -/
theorem carrying_ranE : (u.carrying q I).ranE = chainAt q (computed u.regs I) u.lat.d u.lat.e := by
  rw [State.ranE, carrying_regsBack]
  show executed _ (chainAt q I _ _) = _
  rw [executed_chainAt]
  refine chainAt_congr fun hlo hhi => ?_
  have hout : inStage u.lat .writeback q = false := by
    rw [← Bool.not_eq_true, inStage_writeback]
    omega
  simp [State.after, hout]

theorem carrying_ranM :
    (u.carrying q I).ranM = chainAt q (loadFrom u.dmem I) (u.lat.d + u.lat.e) u.lat.m :=
  loaded_chainAt _ _ _

theorem carrying_exit (hw : 1 ≤ u.lat.w) :
    exitOf (u.carrying q I).slotW = if q + 1 = u.lat.total then some I else none :=
  exitOf_chainAt hw

theorem carrying_sized (hwf : u.lat.wf = true) : (u.carrying q I).Sized :=
  ⟨hwf, chainAt_length _ _, chainAt_length _ _, chainAt_length _ _, chainAt_length _ _⟩

/-- A redirection has nothing to kill. -/
theorem carrying_killedWrites (hq : u.queue = []) : (u.carrying q I).killedWrites = fun _ => 0 := by
  funext r
  have hD : (u.carrying q I).redirects = true → writesIn (u.carrying q I).slotD r = 0 := fun h => by
    have hran := writesIn_map_none (u.carrying q I).slotD r
    have hE : (u.carrying q I).slotD = chainAt q I 0 u.lat.d := rfl
    rw [hE, ← carrying_ranD, State.ranD, if_pos h]
    exact hran
  have hkilled : writesIn (killedIn (u.carrying q I).slotE) r = 0 := writesIn_killedIn_chainAt _ _ _
  rw [State.killedWrites, hkilled]
  split
  next h => rw [hD h, show (u.carrying q I).queue = [] from hq]; rfl
  · rfl

theorem carrying_issuedQueue (hq : u.queue = []) : (u.carrying q I).issuedQueue none = [.bubble] := by
  have hkept : (u.carrying q I).keptQueue = [] := by
    rw [State.keptQueue]
    split
    · rfl
    · exact hq
  rw [State.issuedQueue, issued_of_no_fetch (.inr rfl), hkept]
  rfl

theorem carrying_nextPc : (u.carrying q I).nextPc none = (u.after q I).pc := by
  have hfetched : (u.carrying q I).fetched none = none := by simp [State.fetched]
  rw [State.nextPc, hfetched]
  show (redirectTarget (chainAt q I _ _)).getD u.pc = _
  rw [redirectTarget_chainAt]
  simp only [State.after]
  by_cases h : inStage u.lat .execute q = true
  · rw [if_pos h, if_pos (inStage_execute.mp h)]
  · rw [if_neg h, if_neg (fun hin => h (inStage_execute.mpr hin))]
    rfl

/-- The shift of one chain, when the record in it, or about to come into it, is `I'` after the cycle. -/
theorem carrying_shift {I' J K : InFlight} {off n : Nat} (hn : 1 ≤ n) (hin : off ≤ q → q < off + n → K = I')
    (hcome : q + 1 = off → J = I') :
    (if q + 1 = off then some J else none) :: (chainAt q K off n).dropLast = chainAt (q + 1) I' off n := by
  rw [chainAt_congr hin, ← chainAt_shift hn]
  split
  next h => rw [hcome h]
  · rfl

theorem recordAfter_decode (h : q < u.lat.d) : u.recordAfter q I = I := by
  have hE : ¬ inStage u.lat .execute q = true := by rw [inStage_execute]; omega
  have hM : ¬ inStage u.lat .memory q = true := by rw [inStage_memory]; omega
  rw [State.recordAfter, if_neg hE, if_neg hM]

theorem recordAfter_execute (hlo : u.lat.d ≤ q) (hhi : q < u.lat.d + u.lat.e) : u.recordAfter q I = computed u.regs I := by
  rw [State.recordAfter, if_pos (inStage_execute.mpr ⟨hlo, hhi⟩)]

theorem recordAfter_memory (hlo : u.lat.d + u.lat.e ≤ q) (hhi : q < u.lat.d + u.lat.e + u.lat.m) :
    u.recordAfter q I = loadFrom u.dmem I := by
  have hE : ¬ inStage u.lat .execute q = true := by rw [inStage_execute]; omega
  rw [State.recordAfter, if_neg hE, if_pos (inStage_memory.mpr ⟨hlo, hhi⟩)]

theorem recordAfter_writeback (hlo : u.lat.d + u.lat.e + u.lat.m ≤ q) : u.recordAfter q I = I := by
  have hE : ¬ inStage u.lat .execute q = true := by rw [inStage_execute]; omega
  have hM : ¬ inStage u.lat .memory q = true := by rw [inStage_memory]; omega
  rw [State.recordAfter, if_neg hE, if_neg hM]

/-- A cycle that fetches nothing moves the one record on by one position. -/
theorem completed_carrying (hwf : u.lat.wf = true) (hq : u.queue = []) :
    (u.carrying q I).completed none = (u.after q I).carrying (q + 1) (u.recordAfter q I) := by
  obtain ⟨⟨hd, -⟩, ⟨he, -⟩, ⟨hm, -⟩, hw, -⟩ := latencies_wf_iff.mp hwf
  have hslotD : ([QEntry.bubble].head?.map QEntry.toSlot).join :: (chainAt q I 0 u.lat.d).dropLast = chainAt (q + 1) (u.recordAfter q I) 0 u.lat.d :=
    carrying_shift (J := I) hd (fun _ h => (recordAfter_decode (by omega)).symm) (fun h => absurd h (Nat.succ_ne_zero q))
  have hslotE : exitOf (chainAt q I 0 u.lat.d) :: (chainAt q (computed u.regs I) u.lat.d u.lat.e).dropLast =
      chainAt (q + 1) (u.recordAfter q I) u.lat.d u.lat.e := by
    rw [exitOf_chainAt hd, Nat.zero_add]
    exact carrying_shift he (fun hlo hhi => (recordAfter_execute hlo hhi).symm)
      fun h => (recordAfter_decode (by omega)).symm
  have hslotM : exitOf (chainAt q (computed u.regs I) u.lat.d u.lat.e) ::
      (chainAt q (loadFrom u.dmem I) (u.lat.d + u.lat.e) u.lat.m).dropLast =
        chainAt (q + 1) (u.recordAfter q I) (u.lat.d + u.lat.e) u.lat.m := by
    rw [exitOf_chainAt he]
    exact carrying_shift hm (fun hlo hhi => (recordAfter_memory hlo hhi).symm)
      fun h => (recordAfter_execute (by omega) (by omega)).symm
  have hslotW : exitOf (chainAt q (loadFrom u.dmem I) (u.lat.d + u.lat.e) u.lat.m) ::
      (u.carrying q I).slotW.dropLast = chainAt (q + 1) (u.recordAfter q I) (u.lat.d + u.lat.e + u.lat.m) u.lat.w := by
    rw [exitOf_chainAt hm]
    exact carrying_shift hw (fun hlo _ => (recordAfter_writeback hlo).symm)
      fun h => (recordAfter_memory (by omega) (by omega)).symm
  have hdmem : stored (u.carrying q I).slotM (u.carrying q I).dmem = (u.after q I).dmem :=
    (stored_chainAt _ _ _).trans (if_congr inStage_memory.symm rfl rfl)
  have hissued : (u.carrying q I).issued none = none := issued_of_no_fetch (.inr rfl)
  have hbubbles : (u.carrying q I).bubbles none = 0 := by rw [State.bubbles, hissued]
  unfold State.completed
  rw [carrying_ranD, carrying_ranE, carrying_ranM, carrying_regsBack, carrying_nextPc, carrying_issuedQueue hq,
    carrying_killedWrites hq, carrying_exit hw, hissued, hbubbles, hslotD, hslotE, hslotM, hslotW, hdmem, BitVec.add_zero,
    traceRecord_eq]
  simp only [Nat.zero_add]
  rw [show [QEntry.bubble].tail = u.queue from hq.symm]
  simp only [State.carrying, State.after, slotWrites_none]

/-- A cycle that fetches nothing, with one record in the pipeline: it moves on, or its access is misaligned. -/
theorem cycleWith_carrying (hwf : u.lat.wf = true) (hq : u.queue = []) (hf : u.fault = 0#4) :
    cycleWith none (u.carrying q I) =
      if inStage u.lat .memory q = true ∧ misaligned I = true then { u.carrying q I with fault := 7#4 }
      else (u.after q I).carrying (q + 1) (u.recordAfter q I) := by
  rw [cycleWith_of_sized none (carrying_sized hwf) hf, completed_carrying hwf hq]
  refine if_congr ?_ rfl rfl
  rw [inStage_memory]
  exact anyMisaligned_chainAt _ _

theorem drained_chains (h : u.Drained) :
    u.slotD = List.replicate u.lat.d none ∧ u.slotE = List.replicate u.lat.e none ∧
      u.slotM = List.replicate u.lat.m none ∧ u.slotW = List.replicate u.lat.w none := by
  have hslots : ∀ e ∈ u.allSlots, e = none := fun e he => Option.isNone_iff_eq_none.mp (List.all_eq_true.mp h.done e he)
  simp only [State.allSlots, List.mem_append] at hslots
  exact ⟨List.eq_replicate_iff.mpr ⟨h.sized.decode, fun e he => hslots e (.inl (.inl (.inl he)))⟩,
    List.eq_replicate_iff.mpr ⟨h.sized.execute, fun e he => hslots e (.inl (.inl (.inr he)))⟩,
    List.eq_replicate_iff.mpr ⟨h.sized.memory, fun e he => hslots e (.inl (.inr he))⟩,
    List.eq_replicate_iff.mpr ⟨h.sized.writeback, fun e he => hslots e (.inr he)⟩⟩

/-- Past the exit there is nothing left to carry: the slots are those of a drained pipeline. -/
theorem carrying_past_exit {s : State} (h : s.Drained) (hlat : u.lat = s.lat) (hq : s.lat.total ≤ q) :
    u.carrying q I = { u with slotD := s.slotD, slotE := s.slotE, slotM := s.slotM, slotW := s.slotW } := by
  obtain ⟨hD, hE, hM, hW⟩ := drained_chains h
  unfold Latencies.total at hq
  rw [State.carrying, hlat, hD, hE, hM, hW, chainAt_of_outside (.inr (by omega)), chainAt_of_outside (.inr (by omega)),
    chainAt_of_outside (.inr (by omega)), chainAt_of_outside (.inr (by omega))]

theorem carrying_of_drained (h : u.Drained) (hq : u.lat.total ≤ q) : u.carrying q I = u :=
  carrying_past_exit h rfl hq

end

/-! ### What one cycle does to the state beside the record, stage by stage -/

section
variable {u : State} {q : Nat} (I : InFlight)

theorem after_frame (hq : q + 1 ≠ u.lat.total) : u.after q I =
    { u with
      regs := if inStage u.lat .writeback q then regsWith (dsts I.instr) I.res u.regs else u.regs
      dmem := if inStage u.lat .memory q then storeOf I u.dmem else u.dmem
      pc := if inStage u.lat .execute q then (targetOf I).getD u.pc else u.pc
      stalls := u.stalls + 1#64
      started := true } := by
  simp only [State.after, if_neg hq, slotWrites_none, adjusted_none, Option.map_none, Option.toList_none, List.append_nil,
    Option.isSome_none, Bool.false_eq_true, if_false]

theorem after_outside (hq : q < u.lat.d ∨ u.lat.total ≤ q) (hne : q + 1 ≠ u.lat.total) :
    u.after q I = { u with stalls := u.stalls + 1#64, started := true } := by
  unfold Latencies.total at hq
  have hE : ¬ inStage u.lat .execute q = true := by rw [inStage_execute]; omega
  have hM : ¬ inStage u.lat .memory q = true := by rw [inStage_memory]; omega
  have hW : ¬ inStage u.lat .writeback q = true := by rw [inStage_writeback]; omega
  rw [after_frame I hne, if_neg hE, if_neg hM, if_neg hW]

theorem after_execute (hlo : u.lat.d ≤ q) (hhi : q < u.lat.d + u.lat.e) (hne : q + 1 ≠ u.lat.total) :
    u.after q I = { u with pc := (targetOf I).getD u.pc, stalls := u.stalls + 1#64, started := true } := by
  have hM : ¬ inStage u.lat .memory q = true := by rw [inStage_memory]; omega
  have hW : ¬ inStage u.lat .writeback q = true := by rw [inStage_writeback]; omega
  rw [after_frame I hne, if_pos (inStage_execute.mpr ⟨hlo, hhi⟩), if_neg hM, if_neg hW]

theorem after_memory (hlo : u.lat.d + u.lat.e ≤ q) (hhi : q < u.lat.d + u.lat.e + u.lat.m) (hne : q + 1 ≠ u.lat.total) :
    u.after q I = { u with dmem := storeOf I u.dmem, stalls := u.stalls + 1#64, started := true } := by
  have hE : ¬ inStage u.lat .execute q = true := by rw [inStage_execute]; omega
  have hW : ¬ inStage u.lat .writeback q = true := by rw [inStage_writeback]; omega
  rw [after_frame I hne, if_neg hE, if_pos (inStage_memory.mpr ⟨hlo, hhi⟩), if_neg hW]

theorem after_writeback (hlo : u.lat.d + u.lat.e + u.lat.m ≤ q) (hhi : q < u.lat.d + u.lat.e + u.lat.m + u.lat.w)
    (hne : q + 1 ≠ u.lat.total) :
    u.after q I = { u with regs := regsWith (dsts I.instr) I.res u.regs, stalls := u.stalls + 1#64, started := true } := by
  have hE : ¬ inStage u.lat .execute q = true := by rw [inStage_execute]; omega
  have hM : ¬ inStage u.lat .memory q = true := by rw [inStage_memory]; omega
  rw [after_frame I hne, if_neg hE, if_neg hM, if_pos (inStage_writeback.mpr ⟨hlo, hhi⟩)]

/-- At the exit the record writes its destinations once more, is counted and traced, and gives its busy counts back. -/
theorem after_exit (hwf : u.lat.wf = true) (hq : q + 1 = u.lat.total) : u.after q I =
    { u with
      regs := regsWith (dsts I.instr) I.res u.regs
      busy := adjusted u.busy (fun r => (dsts I.instr).count r) fun _ => 0
      committed := u.committed + 1#64
      trace := u.trace ++ [traceOf (regsWith (dsts I.instr) I.res u.regs) I]
      started := true } := by
  obtain ⟨-, -, -, hw, -⟩ := latencies_wf_iff.mp hwf
  unfold Latencies.total at hq
  have hE : ¬ inStage u.lat .execute q = true := by rw [inStage_execute]; omega
  have hM : ¬ inStage u.lat .memory q = true := by rw [inStage_memory]; omega
  have hW : inStage u.lat .writeback q = true := by rw [inStage_writeback]; omega
  simp only [State.after, if_pos (show q + 1 = u.lat.total from hq), if_neg hE, if_neg hM, if_pos hW, slotWrites_some,
    Option.map_some, Option.toList_some, Option.isSome_some, if_true]

end

/-- Settles O46: the drained pipeline carries nothing, so the cycle has nothing to move, run or retire. -/
theorem drainedCycleOnlyCountsAStall : Obligations.DrainedCycleOnlyCountsAStall := by
  unfold Obligations.DrainedCycleOnlyCountsAStall
  intro s hdrained hstarted himem
  have hM : ¬ inStage s.lat .memory s.lat.total = true := by
    rw [inStage_memory, Latencies.total]
    omega
  have hne : s.lat.total + 1 ≠ s.lat.total := Nat.succ_ne_self _
  let I := InFlight.fresh .nop 0#32
  calc cycle s
    _ = cycleWith none (s.carrying s.lat.total I) := by rw [cycle, himem, carrying_of_drained hdrained (Nat.le_refl _)]
    _ = (s.after s.lat.total I).carrying (s.lat.total + 1) (s.recordAfter s.lat.total I) := by
      rw [cycleWith_carrying hdrained.sized.latencies hdrained.queue hdrained.safe, if_neg fun h => hM h.1]
    _ = { s.carrying (s.lat.total + 1) (s.recordAfter s.lat.total I) with stalls := s.stalls + 1#64, started := true } := by
      rw [after_outside I (.inr (Nat.le_refl _)) hne]
      rfl
    _ = { s with stalls := s.stalls + 1#64 } := by rw [carrying_of_drained hdrained (Nat.le_succ _), ← hstarted]

/-! ### An instruction alone, from its fetch to its retirement (R181) -/

theorem targetOf_of_identity {I K : InFlight} (h : I.identity = K.identity) : targetOf I = targetOf K := by
  have hinstr : I.instr = K.instr := congrArg Prod.fst h
  have haddr : I.addr = K.addr := congrArg Prod.snd h
  unfold targetOf behE
  rw [hinstr]
  cases K.instr <;> simp [jE, haddr]

theorem computed_computed (regs : Vector Word 32) (I : InFlight) :
    computed regs (computed regs I) = computed regs I := by
  unfold computed behE
  cases hi : I.instr <;> simp [addE, subE, andiE, lwE, swE, hi]

theorem loadFrom_loadFrom_of_eq {m m' : Memory} {I : InFlight}
    (h : ∀ rt rs off16, I.instr = .lw rt rs off16 → m' = m) : loadFrom m' (loadFrom m I) = loadFrom m I := by
  by_cases hlw : ∃ rt rs off16, I.instr = .lw rt rs off16
  · obtain ⟨rt, rs, off16, hi⟩ := hlw
    rw [h rt rs off16 hi, loadFrom_of_lw hi]
    exact loadFrom_of_lw (I := { I with res := _ }) hi
  · have hid : ∀ m, loadFrom m I = I := fun m => loadFrom_of_not_lw fun rt rs off16 hi => hlw ⟨rt, rs, off16, hi⟩
    rw [hid, hid]

theorem storeOf_loadFrom (m m' : Memory) (I : InFlight) : storeOf (loadFrom m I) m' = storeOf I m' := by
  unfold storeOf loadFrom
  cases hi : I.instr <;> simp [hi]

theorem misaligned_loadFrom (m : Memory) (I : InFlight) : misaligned (loadFrom m I) = misaligned I := by
  unfold misaligned loadFrom
  cases hi : I.instr <;> simp [hi]

theorem regs_ext {v w : Vector Word 32} (h : ∀ r, valueOf v r = valueOf w r) : v = w := by
  apply Vector.ext
  intro i hi
  have := h (BitVec.ofNat 5 i)
  simpa [valueOf, Nat.mod_eq_of_lt hi] using this

theorem regsWith_regsWith (rs : List RegId) (v : Word) (regs : Vector Word 32) :
    regsWith rs v (regsWith rs v regs) = regsWith rs v regs :=
  regs_ext fun r => by by_cases h : r ∈ rs <;> simp [valueOf_regsWith, h]

end Sys2Proof.Machine

namespace Sys2Proof.Machine

section
variable (s : State) (i : Instr)

/-- The record of `i` after its fetch, after execute, and after memory, when nothing else is in the pipeline. -/
def State.fetchedAlone : InFlight := InFlight.fresh i s.pc
def State.computedAlone : InFlight := computed s.regs (s.fetchedAlone i)
def State.loadedAlone : InFlight := loadFrom s.dmem (s.computedAlone i)

/-- The record when it stands at position `q`. -/
def State.recordAlone (q : Nat) : InFlight :=
  if q ≤ s.lat.d then s.fetchedAlone i else if q ≤ s.lat.d + s.lat.e then s.computedAlone i else s.loadedAlone i

/-- `pc` when the record stands at position `q`: a jump has redirected once it is past the entry of execute. -/
def State.pcAlone (q : Nat) : Word :=
  if q ≤ s.lat.d then s.pc + 4#32 else (targetOf (s.fetchedAlone i)).getD (s.pc + 4#32)

/-- The data memory when the record stands at position `q`: a store is made once for each slot of memory behind it (R113). -/
def State.dmemAlone (q : Nat) : Memory :=
  (storeOf (s.computedAlone i))^[min (q - (s.lat.d + s.lat.e)) s.lat.m] s.dmem

/-- The register file when the record stands at position `q`. -/
def State.regsAlone (q : Nat) : Vector Word 32 :=
  if q ≤ s.lat.d + s.lat.e + s.lat.m then s.regs else regsWith (dsts i) (s.loadedAlone i).res s.regs

/-- The state beside the slots when the record stands at position `q`. -/
@[irreducible] def State.besideAlone (q : Nat) : State :=
  { s with
    regs := s.regsAlone i q, dmem := s.dmemAlone i q, pc := s.pcAlone i q
    busy := adjusted s.busy (fun _ => 0) fun r => (dsts i).count r
    stalls := s.stalls + BitVec.ofNat 64 (q + 1), started := true }

/-- The state `q` cycles after the one that fetched `i` into the drained `s`. -/
def State.alone (q : Nat) : State := (s.besideAlone i q).carrying q (s.recordAlone i q)

end

section
variable {s : State} {i : Instr}

theorem stalls_succ (c : Counter) (n : Nat) : c + BitVec.ofNat 64 n + 1#64 = c + BitVec.ofNat 64 (n + 1) := by
  rw [BitVec.add_assoc, BitVec.ofNat_add]

theorem fetchedAlone_instr : (s.fetchedAlone i).instr = i := rfl

theorem computedAlone_identity : (s.computedAlone i).identity = (s.fetchedAlone i).identity := computed_identity _ _

theorem loadedAlone_identity : (s.loadedAlone i).identity = (s.fetchedAlone i).identity :=
  (loadFrom_identity _ _).trans computedAlone_identity

theorem computedAlone_instr : (s.computedAlone i).instr = i := congrArg Prod.fst computedAlone_identity
theorem loadedAlone_instr : (s.loadedAlone i).instr = i := congrArg Prod.fst loadedAlone_identity

theorem besideAlone_succ (q : Nat) : s.besideAlone i (q + 1) =
    { s.besideAlone i q with
      regs := s.regsAlone i (q + 1), dmem := s.dmemAlone i (q + 1), pc := s.pcAlone i (q + 1)
      stalls := (s.besideAlone i q).stalls + 1#64, started := true } := by
  unfold State.besideAlone
  rw [stalls_succ]

theorem besideAlone_lat (q : Nat) : (s.besideAlone i q).lat = s.lat := by unfold State.besideAlone; rfl
theorem besideAlone_queue (q : Nat) : (s.besideAlone i q).queue = s.queue := by unfold State.besideAlone; rfl
theorem besideAlone_fault (q : Nat) : (s.besideAlone i q).fault = s.fault := by unfold State.besideAlone; rfl
theorem besideAlone_regs (q : Nat) : (s.besideAlone i q).regs = s.regsAlone i q := by unfold State.besideAlone; rfl
theorem besideAlone_dmem (q : Nat) : (s.besideAlone i q).dmem = s.dmemAlone i q := by unfold State.besideAlone; rfl
theorem besideAlone_pc (q : Nat) : (s.besideAlone i q).pc = s.pcAlone i q := by unfold State.besideAlone; rfl

/-! The components at a position, stage by stage. -/

theorem recordAlone_early {q : Nat} (h : q ≤ s.lat.d) : s.recordAlone i q = s.fetchedAlone i := if_pos h

theorem recordAlone_middle {q : Nat} (hlo : s.lat.d < q) (hhi : q ≤ s.lat.d + s.lat.e) :
    s.recordAlone i q = s.computedAlone i := by
  rw [State.recordAlone, if_neg (by omega), if_pos hhi]

theorem recordAlone_late {q : Nat} (hlo : s.lat.d + s.lat.e < q) : s.recordAlone i q = s.loadedAlone i := by
  rw [State.recordAlone, if_neg (by omega), if_neg (by omega)]

theorem pcAlone_early {q : Nat} (h : q ≤ s.lat.d) : s.pcAlone i q = s.pc + 4#32 := if_pos h
theorem pcAlone_late {q : Nat} (h : s.lat.d < q) :
    s.pcAlone i q = (targetOf (s.fetchedAlone i)).getD (s.pc + 4#32) := if_neg (Nat.not_le_of_lt h)

theorem regsAlone_early {q : Nat} (h : q ≤ s.lat.d + s.lat.e + s.lat.m) : s.regsAlone i q = s.regs := if_pos h
theorem regsAlone_late {q : Nat} (h : s.lat.d + s.lat.e + s.lat.m < q) :
    s.regsAlone i q = regsWith (dsts i) (s.loadedAlone i).res s.regs := if_neg (Nat.not_le_of_lt h)

theorem dmemAlone_early {q : Nat} (h : q ≤ s.lat.d + s.lat.e) : s.dmemAlone i q = s.dmem := by
  rw [State.dmemAlone, Nat.sub_eq_zero_of_le h, Nat.zero_min]
  rfl

theorem dmemAlone_late {q : Nat} (h : s.lat.d + s.lat.e + s.lat.m ≤ q) :
    s.dmemAlone i q = (storeOf (s.computedAlone i))^[s.lat.m] s.dmem := by
  rw [State.dmemAlone, Nat.min_eq_right (by omega)]

theorem dmemAlone_succ {q : Nat} (hlo : s.lat.d + s.lat.e ≤ q) (hhi : q < s.lat.d + s.lat.e + s.lat.m) :
    s.dmemAlone i (q + 1) = storeOf (s.computedAlone i) (s.dmemAlone i q) := by
  rw [State.dmemAlone, State.dmemAlone, Nat.min_eq_left (by omega), Nat.min_eq_left (by omega), Nat.sub_add_comm hlo,
    Function.iterate_succ_apply']

/-- Only a store changes memory. -/
theorem stores_of_not_sw (h : ∀ rt rs off16, i ≠ .sw rt rs off16) (n : Nat) :
    (storeOf (s.computedAlone i))^[n] s.dmem = s.dmem :=
  Function.iterate_fixed (storeOf_of_not_sw fun rt rs off16 hi => h rt rs off16 (computedAlone_instr.symm.trans hi)) n

theorem dmemAlone_of_not_sw {q : Nat} (h : ∀ rt rs off16, i ≠ .sw rt rs off16) : s.dmemAlone i q = s.dmem :=
  stores_of_not_sw h _

/-- A step of the one record, given what its stage does. -/
theorem cycleWith_alone {q : Nat} (h : s.Drained)
    (hm : ¬ (inStage s.lat .memory q = true ∧ misaligned (s.recordAlone i q) = true))
    (hafter : (s.besideAlone i q).after q (s.recordAlone i q) = s.besideAlone i (q + 1))
    (hrecord : (s.besideAlone i q).recordAfter q (s.recordAlone i q) = s.recordAlone i (q + 1)) :
    cycleWith none (s.alone i q) = s.alone i (q + 1) := by
  have hlat := besideAlone_lat (s := s) (i := i) q
  rw [State.alone, cycleWith_carrying (by rw [hlat]; exact h.sized.latencies) (by rw [besideAlone_queue]; exact h.queue)
    (by rw [besideAlone_fault]; exact h.safe), hlat, if_neg hm, hafter, hrecord, State.alone]

theorem cycle_alone_decode {q : Nat} (h : s.Drained) (hq : q < s.lat.d) :
    cycleWith none (s.alone i q) = s.alone i (q + 1) := by
  obtain ⟨hd, he, hm, hw⟩ := h.sized.positive
  have hlat := besideAlone_lat (s := s) (i := i) q
  have hne : q + 1 ≠ s.lat.total := by unfold Latencies.total; omega
  refine cycleWith_alone h (fun hm => ?_) ?_ ?_
  · have := inStage_memory.mp hm.1
    omega
  · rw [after_outside _ (.inl (hlat ▸ hq)) (hlat ▸ hne), besideAlone_succ, regsAlone_early (by omega),
      dmemAlone_early (by omega), pcAlone_early (by omega)]
    unfold State.besideAlone
    rw [regsAlone_early (by omega), dmemAlone_early (by omega), pcAlone_early (by omega)]
  · rw [recordAfter_decode (hlat ▸ hq), recordAlone_early (by omega), recordAlone_early (by omega)]

theorem cycle_alone_execute {q : Nat} (h : s.Drained) (hlo : s.lat.d ≤ q) (hhi : q < s.lat.d + s.lat.e) :
    cycleWith none (s.alone i q) = s.alone i (q + 1) := by
  obtain ⟨hd, he, hm, hw⟩ := h.sized.positive
  have hlat := besideAlone_lat (s := s) (i := i) q
  have hne : q + 1 ≠ s.lat.total := by unfold Latencies.total; omega
  have hrec : computed s.regs (s.recordAlone i q) = s.computedAlone i ∧
      (targetOf (s.recordAlone i q)).getD (s.pcAlone i q) = (targetOf (s.fetchedAlone i)).getD (s.pc + 4#32) := by
    by_cases hq : q ≤ s.lat.d
    · rw [recordAlone_early hq, pcAlone_early hq]
      exact ⟨rfl, rfl⟩
    · rw [recordAlone_middle (by omega) (by omega), pcAlone_late (by omega), targetOf_of_identity computedAlone_identity]
      refine ⟨computed_computed _ _, ?_⟩
      cases targetOf (s.fetchedAlone i) <;> rfl
  obtain ⟨hcomputed, hpc⟩ := hrec
  refine cycleWith_alone h (fun hm => ?_) ?_ ?_
  · have := inStage_memory.mp hm.1
    omega
  · rw [after_execute _ (hlat ▸ hlo) (hlat ▸ hhi) (hlat ▸ hne), besideAlone_succ, besideAlone_pc, hpc,
      regsAlone_early (by omega), dmemAlone_early (by omega), pcAlone_late (by omega)]
    unfold State.besideAlone
    rw [regsAlone_early (by omega), dmemAlone_early (by omega)]
  · rw [recordAfter_execute (hlat ▸ hlo) (hlat ▸ hhi), besideAlone_regs, regsAlone_early (by omega), hcomputed,
      recordAlone_middle (by omega) (by omega)]

theorem misaligned_recordAlone {q : Nat} (hlo : s.lat.d + s.lat.e ≤ q) (he : 1 ≤ s.lat.e) :
    misaligned (s.recordAlone i q) = misaligned (s.computedAlone i) := by
  by_cases hq : q ≤ s.lat.d + s.lat.e
  · rw [recordAlone_middle (by omega) hq]
  · rw [recordAlone_late (by omega)]
    exact misaligned_loadFrom _ _

theorem cycle_alone_memory {q : Nat} (h : s.Drained) (hal : ¬ misaligned (s.computedAlone i) = true)
    (hlo : s.lat.d + s.lat.e ≤ q) (hhi : q < s.lat.d + s.lat.e + s.lat.m) :
    cycleWith none (s.alone i q) = s.alone i (q + 1) := by
  obtain ⟨hd, he, hm, hw⟩ := h.sized.positive
  have hlat := besideAlone_lat (s := s) (i := i) q
  have hne : q + 1 ≠ s.lat.total := by unfold Latencies.total; omega
  have hrec : loadFrom (s.dmemAlone i q) (s.recordAlone i q) = s.loadedAlone i ∧
      storeOf (s.recordAlone i q) (s.dmemAlone i q) = storeOf (s.computedAlone i) (s.dmemAlone i q) := by
    by_cases hq : q ≤ s.lat.d + s.lat.e
    · rw [recordAlone_middle (by omega) hq, dmemAlone_early hq]
      exact ⟨rfl, rfl⟩
    · rw [recordAlone_late (by omega)]
      refine ⟨loadFrom_loadFrom_of_eq fun rt rs off16 hi => dmemAlone_of_not_sw ?_, storeOf_loadFrom _ _ _⟩
      rw [computedAlone_instr] at hi
      rw [hi]
      exact fun _ _ _ h => nomatch h
  obtain ⟨hloaded, hstore⟩ := hrec
  refine cycleWith_alone h (fun hm => hal ?_) ?_ ?_
  · rw [← misaligned_recordAlone hlo he]
    exact hm.2
  · rw [after_memory _ (hlat ▸ hlo) (hlat ▸ hhi) (hlat ▸ hne), besideAlone_succ, besideAlone_dmem, hstore,
      regsAlone_early (by omega), dmemAlone_succ hlo hhi, pcAlone_late (by omega)]
    unfold State.besideAlone
    rw [regsAlone_early (by omega), pcAlone_late (by omega)]
  · rw [recordAfter_memory (hlat ▸ hlo) (hlat ▸ hhi), besideAlone_dmem, hloaded, recordAlone_late (by omega)]

/-- In writeback the destinations hold the result, in every cycle but the first after it has been written before. -/
theorem regsWith_regsAlone (q : Nat) : regsWith (dsts i) (s.loadedAlone i).res (s.regsAlone i q) =
    regsWith (dsts i) (s.loadedAlone i).res s.regs := by
  by_cases hq : q ≤ s.lat.d + s.lat.e + s.lat.m
  · rw [regsAlone_early hq]
  · rw [regsAlone_late (by omega)]
    exact regsWith_regsWith _ _ _

theorem cycle_alone_writeback {q : Nat} (h : s.Drained) (hlo : s.lat.d + s.lat.e + s.lat.m ≤ q) (hhi : q + 1 < s.lat.total) :
    cycleWith none (s.alone i q) = s.alone i (q + 1) := by
  obtain ⟨hd, he, hm, hw⟩ := h.sized.positive
  have hlat := besideAlone_lat (s := s) (i := i) q
  have hne : q + 1 ≠ s.lat.total := Nat.ne_of_lt hhi
  unfold Latencies.total at hhi
  have hhi' : q < s.lat.d + s.lat.e + s.lat.m + s.lat.w := by omega
  refine cycleWith_alone h (fun hm => ?_) ?_ ?_
  · have := inStage_memory.mp hm.1
    omega
  · rw [after_writeback _ (hlat ▸ hlo) (hlat ▸ hhi') (hlat ▸ hne), besideAlone_succ, besideAlone_regs,
      recordAlone_late (by omega), loadedAlone_instr, regsWith_regsAlone, regsAlone_late (by omega),
      dmemAlone_late (by omega), pcAlone_late (by omega)]
    unfold State.besideAlone
    rw [dmemAlone_late hlo, pcAlone_late (by omega)]
  · rw [recordAfter_writeback (hlat ▸ hlo), recordAlone_late (by omega), recordAlone_late (by omega)]

theorem drainCycles_succ (n : Nat) (s : State) : drainCycles (n + 1) s = cycleWith none (drainCycles n s) := by
  induction n generalizing s with
  | zero => rfl
  | succ n ih => exact ih (cycleWith none s)

/-- Up to memory, the record moves on whatever its address is. -/
theorem drainCycles_alone_early (h : s.Drained) : ∀ q, q ≤ s.lat.d + s.lat.e → drainCycles q (s.alone i 0) = s.alone i q := by
  intro q
  induction q with
  | zero => exact fun _ => rfl
  | succ q ih =>
    intro hq
    rw [drainCycles_succ, ih (by omega)]
    by_cases hd : q < s.lat.d
    · exact cycle_alone_decode h hd
    · exact cycle_alone_execute h (by omega) (by omega)

/-- With an aligned access, or none, the record reaches the exit. -/
theorem drainCycles_alone (h : s.Drained) (hal : ¬ misaligned (s.computedAlone i) = true) :
    ∀ q, q < s.lat.total → drainCycles q (s.alone i 0) = s.alone i q := by
  intro q
  induction q with
  | zero => exact fun _ => rfl
  | succ q ih =>
    intro hq
    rw [drainCycles_succ, ih (by omega)]
    obtain hd | ⟨n, hn, rfl⟩ | ⟨n, hn, rfl⟩ | ⟨n, hn, rfl⟩ := position_cases s.lat (q := q) (by omega)
    · exact cycle_alone_decode h hd
    · exact cycle_alone_execute h (by omega) (by omega)
    · exact cycle_alone_memory h hal (by omega) (by omega)
    · exact cycle_alone_writeback h (by omega) hq

end

end Sys2Proof.Machine

namespace Sys2Proof.Machine

/-! ### The fetch into a drained pipeline, and the retirement from it -/

theorem exitOf_replicate (n : Nat) : exitOf (List.replicate n (none : Option InFlight)) = none := by
  rw [exitOf, List.getLast?_replicate]
  split <;> rfl

theorem none_cons_dropLast {n : Nat} (hn : 1 ≤ n) :
    none :: (List.replicate n (none : Option InFlight)).dropLast = List.replicate n none := by
  obtain ⟨n, rfl⟩ := Nat.exists_eq_add_of_le' hn
  rw [List.dropLast_replicate]
  rfl

section
variable {s : State} (h : s.Drained)
include h

theorem drained_redirects : s.redirects = false := by
  rw [State.redirects, (drained_chains h).2.1, redirectTarget_replicate]
  rfl

theorem drained_ran : s.ranD = List.replicate s.lat.d none ∧ s.ranE = List.replicate s.lat.e none ∧
    s.ranM = List.replicate s.lat.m none := by
  obtain ⟨hD, hE, hM, -⟩ := drained_chains h
  refine ⟨?_, ?_, ?_⟩
  · rw [State.ranD, drained_redirects h, hD]; rfl
  · rw [State.ranE, hE, executed_replicate]
  · rw [State.ranM, hM, loaded_replicate]

theorem drained_recordAt (q : Nat) : s.recordAt q = none := isDone_iff.mp h.done q

theorem drained_issued (i : Instr) : s.issued (some i) = some (s.fetchedAlone i) :=
  issued_of_fetch (drained_redirects h) h.queue rfl

/-- Nothing in flight produces a source, so nothing stalls (R209). -/
theorem drained_bubbles (i : Instr) : s.bubbles (some i) = 0 := by
  have hnone : producers (s.transit (some i)) (s.retired (some i)) (s.fetchedAlone i).instr = [] :=
    List.eq_nil_iff_forall_not_mem.mpr fun ⟨K, p⟩ hp => by
      obtain ⟨hp1, hK⟩ := recordAt_of_mem_producers h.sized hp
      obtain ⟨p, rfl⟩ := Nat.exists_eq_add_of_le' hp1
      rw [completed_recordAt_none (some i) h.sized (drained_recordAt h p)] at hK
      cases hK
  have hspec := bubbles_spec (drained_issued h i)
  rw [stallCount_of_no_producer hnone] at hspec
  exact (Except.ok.inj hspec).symm

theorem drained_issuedQueue (i : Instr) : s.issuedQueue (some i) = [.held (s.fetchedAlone i)] := by
  rw [issuedQueue_of_fetch (drained_redirects h) h.queue rfl, drained_bubbles h i]
  rfl

theorem drained_killedWrites : s.killedWrites = fun _ => 0 := by
  have hcarry := carrying_killedWrites (u := s) (q := s.lat.total) (I := s.fetchedAlone .nop) h.queue
  rwa [carrying_of_drained h (Nat.le_refl _)] at hcarry

theorem drained_nextPc (i : Instr) : s.nextPc (some i) = s.pc + 4#32 := by
  rw [State.nextPc, (drained_chains h).2.1, redirectTarget_replicate, Option.getD_none, if_pos]
  exact fetched_isSome.mpr ⟨h.queue, Option.some_ne_none i⟩

/-- A cycle that fetches into a drained pipeline puts the record at the entry of decode (R171, R174, R175). -/
theorem cycleWith_fetch_alone (i : Instr) : cycleWith (some i) s = s.alone i 0 := by
  obtain ⟨hd, he, hm, hw⟩ := h.sized.positive
  obtain ⟨hD, hE, hM, hW⟩ := drained_chains h
  obtain ⟨hranD, hranE, hranM⟩ := drained_ran h
  have haligned : anyMisaligned s.slotM = false := by
    rw [hM, ← Bool.not_eq_true, anyMisaligned_iff]
    simp
  have hslotD : some (s.fetchedAlone i) :: (List.replicate s.lat.d none).dropLast =
      chainAt 0 (s.fetchedAlone i) 0 s.lat.d := by
    obtain ⟨n, hn⟩ := Nat.exists_eq_add_of_le' hd
    rw [hn, List.dropLast_replicate, chainAt_succ, if_pos rfl]
    rfl
  have hempty : ∀ off n, 0 < off → chainAt 0 (s.fetchedAlone i) off n = List.replicate n none :=
    fun _ _ hoff => chainAt_of_outside (.inl hoff)
  have hslotE := hempty s.lat.d s.lat.e (by omega)
  have hslotM := hempty (s.lat.d + s.lat.e) s.lat.m (by omega)
  have hslotW := hempty (s.lat.d + s.lat.e + s.lat.m) s.lat.w (by omega)
  have hback : s.regsBack = s.regs := by rw [State.regsBack, hW, writtenBack_replicate]
  have hentry : ([QEntry.held (s.fetchedAlone i)].head?.map QEntry.toSlot).join = some (s.fetchedAlone i) := rfl
  rw [cycleWith_of_sized _ h.sized h.safe, haligned, if_neg (by decide), State.completed, drained_issuedQueue h,
    drained_bubbles h, drained_killedWrites h, drained_nextPc h, drained_issued h, hranD, hranE, hranM, hback, hW,
    exitOf_replicate, exitOf_replicate, exitOf_replicate, exitOf_replicate, none_cons_dropLast he, none_cons_dropLast hm,
    none_cons_dropLast hw, hentry, hslotD, hM, stored_replicate, BitVec.add_zero]
  rw [State.alone, recordAlone_early (Nat.zero_le _), State.carrying, besideAlone_lat,
    hslotE, hslotM, hslotW, State.besideAlone, regsAlone_early (Nat.zero_le _), dmemAlone_early (Nat.zero_le _), pcAlone_early (Nat.zero_le _)]
  simp only [Option.isSome_none, Bool.false_eq_true, if_false, slotWrites_none, Nat.zero_add, slotWrites_some,
    fetchedAlone_instr, Option.map_none, Option.toList_none, List.append_nil, List.tail_cons, h.queue]

end

end Sys2Proof.Machine

namespace Sys2Proof.Machine

section
variable {s : State} {i : Instr}

/-- What the exit gives back to the busy counts is what the fetch took. -/
theorem adjusted_down_up (b : Vector Nat 32) (c : RegId → Nat) :
    adjusted (adjusted b (fun _ => 0) c) c (fun _ => 0) = b := by
  refine (eq_adjusted fun r => ?_).symm
  rw [countOf_adjusted]
  omega

/-- The commit record of the retirement (R180). -/
theorem traceOf_loadedAlone {k : Kind} (hk : i.kind? = some k) (regs : Vector Word 32) :
    traceOf regs (s.loadedAlone i) = ⟨k.label, s.pc, (dsts i).head?.map fun r => (valueOf regs r).toInt⟩ := by
  have haddr : (s.loadedAlone i).addr = s.pc := congrArg Prod.snd loadedAlone_identity
  rw [traceOf, traceRecord, loadedAlone_instr, haddr, hk]
  rfl

/-- `s` after `i` has been fetched into it and has retired. -/
def State.retiredAlone (s : State) (i : Instr) (k : Kind) : State :=
  { s with
    regs := regsWith (dsts i) (s.loadedAlone i).res s.regs
    dmem := (storeOf (s.computedAlone i))^[s.lat.m] s.dmem
    pc := (targetOf (s.fetchedAlone i)).getD (s.pc + 4#32)
    committed := s.committed + 1#64, stalls := s.stalls + BitVec.ofNat 64 s.lat.total, started := true
    trace := s.trace ++ [⟨k.label, s.pc, (dsts i).head?.map fun r =>
      (valueOf (regsWith (dsts i) (s.loadedAlone i).res s.regs) r).toInt⟩] }

/-- An instruction whose access is aligned, or that makes none, retires `P` cycles after its fetch (R181). -/
theorem drainCycles_fetch_alone {k : Kind} (h : s.Drained) (hk : i.kind? = some k)
    (hal : ¬ misaligned (s.computedAlone i) = true) :
    drainCycles s.lat.total (cycleWith (some i) s) = s.retiredAlone i k := by
  obtain ⟨hd, he, hm, hw⟩ := h.sized.positive
  obtain ⟨q, hq⟩ : ∃ q, s.lat.total = q + 1 := Nat.exists_eq_succ_of_ne_zero (by unfold Latencies.total; omega)
  have hlat := besideAlone_lat (s := s) (i := i) q
  have hback : s.lat.d + s.lat.e + s.lat.m ≤ q := by unfold Latencies.total at hq; omega
  have hM : ¬ inStage s.lat .memory q = true := by rw [inStage_memory]; omega
  have hexit : (s.besideAlone i q).after q (s.loadedAlone i) =
      { s.besideAlone i q with
        regs := regsWith (dsts i) (s.loadedAlone i).res s.regs
        busy := adjusted (s.besideAlone i q).busy (fun r => (dsts i).count r) fun _ => 0
        committed := (s.besideAlone i q).committed + 1#64
        trace := (s.besideAlone i q).trace ++
          [⟨k.label, s.pc, (dsts i).head?.map fun r => (valueOf (regsWith (dsts i) (s.loadedAlone i).res s.regs) r).toInt⟩]
        started := true } := by
    rw [after_exit _ (hlat ▸ h.sized.latencies) (hlat ▸ hq.symm), besideAlone_regs, loadedAlone_instr,
      regsWith_regsAlone, traceOf_loadedAlone hk]
  calc drainCycles s.lat.total (cycleWith (some i) s)
    _ = cycleWith none (s.alone i q) := by
      rw [hq, drainCycles_succ, cycleWith_fetch_alone h, drainCycles_alone h hal q (by omega)]
    _ = ((s.besideAlone i q).after q (s.loadedAlone i)).carrying (q + 1)
          ((s.besideAlone i q).recordAfter q (s.loadedAlone i)) := by
      rw [State.alone, recordAlone_late (by omega), cycleWith_carrying (hlat ▸ h.sized.latencies)
        (by rw [besideAlone_queue]; exact h.queue) (by rw [besideAlone_fault]; exact h.safe), hlat, if_neg fun hin => hM hin.1]
    _ = { (s.besideAlone i q).after q (s.loadedAlone i) with
            slotD := s.slotD, slotE := s.slotE, slotM := s.slotM, slotW := s.slotW } :=
      carrying_past_exit h (by rw [hexit]; exact hlat) (Nat.le_of_eq hq)
    _ = s.retiredAlone i k := by
      rw [hexit]
      unfold State.besideAlone State.retiredAlone
      rw [adjusted_down_up, dmemAlone_late hback, pcAlone_late (by omega), hq]

end

end Sys2Proof.Machine

namespace Sys2Proof.Machine

/-! ### Each instruction alone -/

section
variable {s : State} {i : Instr}

/-- The shape in which the statements ask for a run alone. -/
theorem runs_alone {k : Kind} {t : State} (h : s.Drained) (hk : i.kind? = some k) (hprog : i.isProgram = true)
    (hal : ¬ misaligned (s.computedAlone i) = true) (hret : s.retiredAlone i k = t) :
    ∃ u, exec i s = .next u ∧ drainCycles s.lat.total u = t :=
  ⟨cycleWith (some i) s, exec_program hprog s, (drainCycles_fetch_alone h hk hal).trans hret⟩

/-- An instruction with one destination, no store and no target leaves its result there and in the trace (R180). -/
theorem retiredAlone_of_result {k : Kind} {r : RegId} {v : Word} (hdst : dsts i = [r])
    (hsw : ∀ rt rs off16, i ≠ .sw rt rs off16) (htarget : targetOf (s.fetchedAlone i) = none)
    (hres : (s.loadedAlone i).res = v) : s.retiredAlone i k =
      { s with regs := s.regs.set r.toNat v r.isLt, pc := s.pc + 4#32, committed := s.committed + 1#64
               stalls := s.stalls + BitVec.ofNat 64 s.lat.total, started := true
               trace := s.trace ++ [⟨k.label, s.pc, some v.toInt⟩] } := by
  have hvalue : valueOf (regsWith [r] v s.regs) r = v := by
    rw [valueOf_regsWith, if_pos (List.mem_singleton_self r)]
  rw [State.retiredAlone, stores_of_not_sw hsw, htarget, hres, hdst, List.head?_cons, Option.map_some, hvalue]
  rfl

theorem not_misaligned_of_aligned (ha : (s.computedAlone i).ea.extractLsb' 0 2 = 0#2) :
    ¬ misaligned (s.computedAlone i) = true := fun hm => (misaligned_iff.mp hm).2 ha

/-- An instruction that is no memory access is never misaligned. -/
theorem not_misaligned_of_no_access (hi : ∀ rt rs off16, i ≠ .lw rt rs off16 ∧ i ≠ .sw rt rs off16) :
    ¬ misaligned (s.computedAlone i) = true := fun hm => by
  obtain ⟨⟨rt, rs, off16, haccess⟩, -⟩ := misaligned_iff.mp hm
  rw [computedAlone_instr] at haccess
  exact haccess.elim (hi rt rs off16).1 (hi rt rs off16).2

/-- Memory runs nothing for an instruction that is no load. -/
theorem loadedAlone_of_not_lw (hi : ∀ rt rs off16, i ≠ .lw rt rs off16) : s.loadedAlone i = s.computedAlone i :=
  loadFrom_of_not_lw fun rt rs off16 h => hi rt rs off16 (computedAlone_instr.symm.trans h)

/-- What an ALU instruction does alone follows from its result at execute. -/
theorem alu_runs_alone {k : Kind} {r : RegId} {v : Word} (h : s.Drained) (hk : i.kind? = some k) (hprog : i.isProgram = true)
    (hi : ∀ rt rs off16, i ≠ .lw rt rs off16 ∧ i ≠ .sw rt rs off16) (hdst : dsts i = [r])
    (htarget : targetOf (s.fetchedAlone i) = none) (hres : (s.computedAlone i).res = v) :
    ∃ u, exec i s = .next u ∧ drainCycles s.lat.total u =
      { s with regs := s.regs.set r.toNat v r.isLt, pc := s.pc + 4#32, committed := s.committed + 1#64
               stalls := s.stalls + BitVec.ofNat 64 s.lat.total, started := true
               trace := s.trace ++ [⟨k.label, s.pc, some v.toInt⟩] } :=
  runs_alone h hk hprog (not_misaligned_of_no_access hi)
    (retiredAlone_of_result hdst (fun rt rs off16 => (hi rt rs off16).2) htarget
      ((congrArg InFlight.res (loadedAlone_of_not_lw fun rt rs off16 => (hi rt rs off16).1)).trans hres))

end

/-- Settles O26: none of the three touches memory or redirects, so only the result at execute is left to give. -/
theorem aluInstructionsRunAlone : Obligations.AluInstructionsRunAlone := by
  unfold Obligations.AluInstructionsRunAlone
  intro s h rd rs rt imm16
  refine ⟨?_, ?_, ?_⟩
  · exact alu_runs_alone (k := .add) h rfl rfl (fun _ _ _ => ⟨nofun, nofun⟩) rfl rfl rfl
  · exact alu_runs_alone (k := .sub) h rfl rfl (fun _ _ _ => ⟨nofun, nofun⟩) rfl rfl rfl
  · exact alu_runs_alone (k := .andi) h rfl rfl (fun _ _ _ => ⟨nofun, nofun⟩) rfl rfl rfl

/-- Settles O27: execute gives the address, and memory the Word there. -/
theorem loadRunsAlone : Obligations.LoadRunsAlone := by
  unfold Obligations.LoadRunsAlone
  intro s h rt rs off16 haligned
  have hres : (s.loadedAlone (.lw rt rs off16)).res = s.memRead (s.x rs + off16.signExtend 32) := by
    rw [State.loadedAlone, loadFrom_of_lw computedAlone_instr]
    rfl
  exact runs_alone (k := .lw) h rfl rfl (not_misaligned_of_aligned haligned)
    (retiredAlone_of_result rfl (fun _ _ _ => nofun) rfl hres)

/-- Writing one Word again and again leaves it there, and every other address as it was. -/
theorem readAt_stores {I : InFlight} {rt rs : RegId} {off16 : BitVec 16} (hi : I.instr = .sw rt rs off16) (n : Nat)
    {m : Memory} (hm : Memory.wf m = true) (b : Nat) :
    Memory.readAt ((storeOf I)^[n + 1] m) b = if b = I.ea.toNat then I.sdata else Memory.readAt m b := by
  induction n generalizing m with
  | zero => rw [Function.iterate_one, storeOf_of_sw hi, readAt_writeAt _ hm]
  | succ n ih =>
    rw [Function.iterate_succ_apply, ih (storeOf_wf I hm), storeOf_of_sw hi, readAt_writeAt _ hm]
    split <;> rfl

/-- Settles O28: the store is made once in each cycle of memory, always to the same address with the same data. -/
theorem storeRunsAlone : Obligations.StoreRunsAlone := by
  unfold Obligations.StoreRunsAlone
  intro s h hwf rt rs off16 haligned
  let i := Instr.sw rt rs off16
  obtain ⟨-, -, hm, -⟩ := h.sized.positive
  obtain ⟨n, hn⟩ := Nat.exists_eq_add_of_le' hm
  obtain ⟨t, ht, hdrain⟩ := runs_alone (k := .sw) h (i := i) rfl rfl (not_misaligned_of_aligned haligned) rfl
  have hread : ∀ b : Word, (drainCycles s.lat.total t).memRead b =
      if b = s.x rs + off16.signExtend 32 then s.x rt else s.memRead b := fun b => by
    have hstores := readAt_stores (I := s.computedAlone i) computedAlone_instr n hwf b.toNat
    rw [hdrain]
    show Memory.readAt ((storeOf (s.computedAlone i))^[s.lat.m] s.dmem) b.toNat = _
    rw [hn, hstores]
    exact if_congr BitVec.toNat_inj rfl rfl
  refine ⟨t, ht, ?_, fun b hb => ?_, ?_⟩
  · rw [hread, if_pos rfl]
  · rw [hread, if_neg hb]
  · rw [hdrain]
    rfl

/-- Settles O29: the jump's record carries its own address, and nothing but the redirection follows from it. -/
theorem jumpRunsAlone : Obligations.JumpRunsAlone := by
  unfold Obligations.JumpRunsAlone
  intro s h index26
  refine runs_alone (k := .j) h rfl rfl (not_misaligned_of_no_access fun _ _ _ => ⟨nofun, nofun⟩) ?_
  rw [State.retiredAlone, stores_of_not_sw (i := .j index26) fun _ _ _ => nofun]
  rfl

/-! ### A misaligned access alone -/

theorem drainCycles_of_faulted {u : State} (hf : u.fault ≠ 0#4) (n : Nat) : drainCycles n u = u := by
  have hcycle : cycleWith none u = u := (faultingCycleIsRolledBack none u).1 hf
  induction n with
  | zero => rfl
  | succ n ih => rw [drainCycles_succ, ih, hcycle]

theorem drainCycles_add (m n : Nat) (u : State) : drainCycles (m + n) u = drainCycles n (drainCycles m u) := by
  induction m generalizing u with
  | zero => rw [Nat.zero_add]; rfl
  | succ m ih => rw [Nat.succ_add]; exact ih _

section
variable {s : State} {i : Instr}

/-- The first cycle of memory raises the fault of a misaligned access (R287). -/
theorem cycle_alone_misaligned (h : s.Drained) (hmis : misaligned (s.computedAlone i) = true) :
    cycleWith none (s.alone i (s.lat.d + s.lat.e)) = { s.alone i (s.lat.d + s.lat.e) with fault := 7#4 } := by
  obtain ⟨hd, he, hm, hw⟩ := h.sized.positive
  have hlat := besideAlone_lat (s := s) (i := i) (s.lat.d + s.lat.e)
  have hin : inStage s.lat .memory (s.lat.d + s.lat.e) = true := inStage_memory.mpr ⟨Nat.le_refl _, by omega⟩
  rw [State.alone, cycleWith_carrying (by rw [hlat]; exact h.sized.latencies) (by rw [besideAlone_queue]; exact h.queue)
    (by rw [besideAlone_fault]; exact h.safe), hlat,
    if_pos ⟨hin, (misaligned_recordAlone (Nat.le_refl _) he).trans hmis⟩]

/-- At the entry of memory the record has changed nothing but its own fields, `pc` and the counters of a cycle. -/
theorem alone_at_memory : let u := s.alone i (s.lat.d + s.lat.e)
    u.fault = s.fault ∧ u.regs = s.regs ∧ u.dmem = s.dmem ∧ u.committed = s.committed := by
  refine ⟨besideAlone_fault _, (besideAlone_regs _).trans (regsAlone_early (by omega)),
    (besideAlone_dmem _).trans (dmemAlone_early (Nat.le_refl _)), ?_⟩
  show (s.besideAlone i _).committed = _
  unfold State.besideAlone
  rfl

end

/-- Settles O30: the record reaches memory as any other does, the alignment check stops the PSC there, and a FAULTED
PSC runs no cycle. -/
theorem misalignedAccessAloneFaults : Obligations.MisalignedAccessAloneFaults := by
  unfold Obligations.MisalignedAccessAloneFaults
  intro s h rt rs off16 hmis i hi
  have haccess : misaligned (s.computedAlone i) = true ∧ i.isProgram = true := by
    rcases List.mem_pair.mp hi with rfl | rfl
    · exact ⟨misaligned_iff.mpr ⟨⟨rt, rs, off16, .inl computedAlone_instr⟩, hmis⟩, rfl⟩
    · exact ⟨misaligned_iff.mpr ⟨⟨rt, rs, off16, .inr computedAlone_instr⟩, hmis⟩, rfl⟩
  obtain ⟨hmisaligned, hprog⟩ := haccess
  have hreach : drainCycles (s.lat.d + s.lat.e) (cycleWith (some i) s) = s.alone i (s.lat.d + s.lat.e) := by
    rw [cycleWith_fetch_alone h, drainCycles_alone_early h _ (Nat.le_refl _)]
  obtain ⟨hfault, hregs, hdmem, hcommitted⟩ := alone_at_memory (s := s) (i := i)
  refine ⟨cycleWith (some i) s, exec_program hprog s, ?_⟩
  rw [hreach]
  refine ⟨hfault.trans h.safe, hregs, hdmem, hcommitted, fun n => ?_⟩
  rw [drainCycles_add, drainCycles_succ, hreach, cycle_alone_misaligned h hmisaligned]
  exact drainCycles_of_faulted (show 7#4 ≠ 0#4 by decide) n

end Sys2Proof.Machine
